-- ==== Sys2Proof/Word.lean ====
section
/-! DEFINITION. Bytes, the levels of the output lines, and groups of four (00_scope.md R10, R11; 10_state.md R43). -/

namespace Sys2Proof

/-- One byte of a buffer (R11). -/
abbrev Byte := BitVec 8

/-- The state of a data line `d[k]` (R43): driven 0, driven 1, or not driven. -/
inductive Level
  | zero
  | one
  /-- `Z`: the block does not drive the line; its level is unspecified. -/
  | z
  deriving DecidableEq, Repr

/-- The state of SCK (R43, R51, R52). -/
inductive SckLevel
  | low
  | high
  /-- The spec's own `unspecified` (R51, R52, R127): any level. No rule reads it. -/
  | unspecified
  deriving DecidableEq, Repr

/-- Four like things, one for each data line D0..D3. -/
structure Quad (α : Type) where
  d0 : α
  d1 : α
  d2 : α
  d3 : α
  deriving DecidableEq, Repr

end Sys2Proof
end

