-- ==== Sys2Proof/Syntax.lean ====
section
/-! DEFINITION. The instructions: every row of spec/opcode_table.json, with the operands of
30_encoding.md R81, and the packets in which they are delivered (R80, R82, R84). -/

namespace Sys2Proof

/-- A host buffer operand: the bytes `base .. base + len - 1` of host memory (R60, log entry 18). -/
structure Buf where
  base : Nat
  len  : Nat
  deriving DecidableEq, Repr

/-- How many data lines a phase uses (30_encoding.md R91). -/
inductive LineWidth
  | single
  | quad
  deriving DecidableEq, Repr

/-- The bus configuration BUS_INITIALIZE is given (10_state.md R28, 40_bus_manager.md R122).
`dma_auto` has one value only (automatic selection) and so is no field. -/
structure BusReq where
  dataPin         : Quad Nat
  sckPin          : Nat
  maxTransferSize : Nat
  master          : Bool
  quadGpio        : Bool
  deriving DecidableEq, Repr

/-- The device configuration (10_state.md R26). Its two header lengths have R26's ranges as their types, so an
operand outside them is no device configuration (log entry 23). -/
structure DevCfg where
  /-- 0..8. -/
  commandBits  : Fin 9
  /-- 0..24. -/
  addressBits  : Fin 25
  dummyBits    : Nat
  mode         : BitVec 2
  clockHz      : Nat
  noCs         : Bool
  halfDuplex   : Bool
  queueDepth   : Nat
  defaultWidth : LineWidth
  deriving DecidableEq, Repr

/-- The transaction descriptor (10_state.md R30). `cmd` and `addr` are naturals, so that check WF6
(30_encoding.md R93) has something to refuse; the two variable lengths that R30 bounds have its ranges as their
types (log entry 23). -/
structure Desc where
  flags     : BitVec 16
  cmd       : Nat
  addr      : Nat
  /-- 0..8. -/
  cmdLen    : Fin 9
  /-- 0..24. -/
  addrLen   : Fin 25
  dummyLen  : Nat
  tx        : List Byte
  bitLength : Nat
  deriving DecidableEq, Repr

/-- One constructor per row of spec/opcode_table.json. -/
inductive Instr
  /-- INIT (R120); an absent polarity or phase takes its default (R81, R100). -/
  | init (busId sck : Nat) (pins : List Nat) (baudrate : Nat) (polarity phase : Option Nat)
  /-- DEINIT (R130). -/
  | deinit
  /-- WRITE_CMD (R190); absent `params` are the empty buffer (R100). -/
  | writeCmd (c : BitVec 8) (params : Option Buf)
  /-- WRITE_DATA (R200). -/
  | writeData (data : Buf)
  /-- WRITE_DATA_ROTATE (R230). -/
  | writeDataRotate (data scratch : Buf)
  /-- READ_ATTR (R134). -/
  | readAttr (sel : BitVec 4)
  /-- BUS_INITIALIZE (R121). -/
  | busInitialize (controllerId : Nat) (bc : BusReq)
  /-- DEVICE_ATTACH (R123). -/
  | deviceAttach (controllerId : Nat) (dc : DevCfg)
  /-- DEVICE_DETACH (R125). -/
  | deviceDetach (handle : Nat)
  /-- BUS_FREE (R127). -/
  | busFree (controllerId : Nat)
  /-- POLLING_TRANSMIT (R150). -/
  | pollingTransmit (handle : Nat) (t : Desc)
  /-- CMD_FRAME (R192). -/
  | cmdFrame (c : BitVec 8) (tx : List Byte)
  /-- HS_FRAME (R196). -/
  | hsFrame
  /-- DATA_FRAME (R198). -/
  | dataFrame (tx : List Byte)
  deriving DecidableEq, Repr

/-- The operand slots of a request. A format reads the slots it names (R81) and no other; operands are
typed values, not bit strings (R98). The defaults are the operand words of zeros. -/
structure Operands where
  id        : Nat := 0
  sck       : Nat := 0
  pins      : List Nat := []
  baudrate  : Nat := 0
  polarity  : Option Nat := none
  phase     : Option Nat := none
  c         : BitVec 8 := 0
  params    : Option Buf := none
  data      : Buf := ⟨0, 0⟩
  scratch   : Buf := ⟨0, 0⟩
  sel       : BitVec 4 := 0
  bc        : BusReq := ⟨⟨0, 0, 0, 0⟩, 0, 0, false, false⟩
  dc        : DevCfg := ⟨0, 0, 0, 0, 0, false, false, 0, .single⟩
  handle    : Nat := 0
  t         : Desc := ⟨0, 0, 0, 0, 0, 0, [], 0⟩
  deriving DecidableEq, Repr

/-- What is delivered to the block, by value (20_memory.md R74). -/
inductive Packet
  /-- A request word at the host interface (R80). -/
  | host (req : BitVec 8) (ops : Operands)
  /-- A request word at the internal controller interface (R82, log entry 4). -/
  | controller (req : BitVec 8) (ops : Operands)
  /-- A frame handed to the controller: its frame key (R84) and payload. `handle` is read for a frame
  that is of no framer kind (R95, log entry 5). -/
  | frame (handle : Nat) (fk : BitVec 48) (tx : List Byte)
  deriving DecidableEq, Repr

end Sys2Proof
end

