-- ==== Sys2Proof/Config.lean ====
section
/-! DEFINITION. The parameters of 00_scope.md R7, R8 and R9 with their defaults, and the free values:
constants without a body, of which nothing in Lean can prove a value (log entries 6, 9, 10, 11). -/

namespace Sys2Proof

/-- MULTILINE_SEMANTICS (R9, 30_encoding.md R91). -/
inductive Multiline
  | absoluteQuad
  | followData
  deriving DecidableEq, Repr

/-- TX_STATUS_POLICY (R9, 42_framer.md R194). -/
inductive TxPolicy
  | checked
  | ignored
  deriving DecidableEq, Repr

/-- STATUS (R8): the set of raw numeric status codes. -/
inductive StatusSet
  /-- Every natural number. -/
  | any
  /-- The numbers listed. -/
  | only (codes : List Nat)
  deriving DecidableEq, Repr

/-- What `Oracle` answers to POLLING_TRANSMIT (41_line_sequencer.md R150, R159). -/
inductive TxAnswer
  /-- A status; `k` is read where the status is not 0, as the number of beats driven (R173). -/
  | status (st k : Nat)
  /-- HANG, after at most `j` beats (R159). -/
  | hang (j : Nat)
  deriving DecidableEq, Repr, Inhabited

/-- The parameters of a model instance. CMD_BITS and ADDR_BITS are values of the fields they are written to
(10_state.md R26; log entry 23). -/
structure Params where
  cmdBits             : Fin 9
  addrBits            : Fin 25
  dummyBits           : Nat
  queueDepth          : Nat
  maxXferBytes        : Nat
  chunkBytes          : Nat
  wcCmd               : BitVec 8
  hsCmd               : BitVec 8
  hsAddr              : BitVec 24
  rotW                : Nat
  rotH                : Nat
  pixelBytes          : Nat
  /-- NUM_DATA_LINES, which a well-formed configuration has at 4 (log entry 17). -/
  numDataLines        : Nat
  defaultCpol         : Nat
  defaultCpha         : Nat
  multiline           : Multiline
  txPolicy            : TxPolicy
  freeBusOnAttachFail : Bool
  statuses            : StatusSet
  stTooLong           : Nat
  dmaCh               : Nat
  /-- Pins whose resolution is given; the free function `Config.resolvePin` resolves every other. -/
  pins                : List (Nat × Option Nat)
  deriving DecidableEq, Repr

namespace Config

/-- `resolve_pin` (R8): the GPIO index of a pin identifier, or none where it fails. FREE VALUE. PIN_IDS, its
domain, is left open: the model has no such set and takes every natural number as a pin identifier (DESIGN CHOICE,
log entry 10). -/
opaque resolvePin : Nat → Option Nat

/-- DMA_CH (R8, R28). FREE VALUE. -/
opaque dmaCh : Nat

/-- ST_TOO_LONG is a non-zero status of open value (R151): one more than this. FREE VALUE. -/
opaque stTooLongPred : Nat

/-- BUS_IDS (R8). FREE VALUE; no rule reads it (R121: the status answers for a controller the platform lacks). -/
opaque isBusId : Nat → Bool

/-- BAUD_MAX (R8). FREE VALUE; no rule reads it (R123: the attach status answers for it). -/
opaque baudMax : Nat

/-- CS_POLICY (R9, R300): whether chip select is asserted at beat `n` of the wire. FREE VALUE; no rule reads it. -/
opaque csAsserted : Nat → Bool

/-- The free answers of `Oracle` (R8, R12), by the number of the draw. FREE VALUES. -/
opaque freeBusInit : Nat → Nat
opaque freeAttach : Nat → Nat
/-- `dev_token` (R8). FREE VALUE. -/
opaque freeHandle : Nat → Nat
opaque freeDetach : Nat → Nat
opaque freeBusFree : Nat → Nat
opaque freeTx : Nat → TxAnswer

/-- The level seen on a line that the block does not drive, by line and time (U23, U24). FREE VALUE. -/
opaque freeLevel : Nat → Nat → Bool

/-- The parameters at their defaults (R7, R9); those of R8 are free values. -/
def params : Params where
  cmdBits := 8
  addrBits := 24
  dummyBits := 0
  queueDepth := 10
  maxXferBytes := 16384 * 16 + 8
  chunkBytes := 0x8000
  wcCmd := 0x02
  hsCmd := 0x32
  hsAddr := 0x002C00
  rotW := 640
  rotH := 180
  pixelBytes := 2
  numDataLines := 4
  defaultCpol := 0
  defaultCpha := 0
  multiline := .absoluteQuad
  txPolicy := .checked
  freeBusOnAttachFail := true
  statuses := .any
  stTooLong := stTooLongPred + 1
  dmaCh := dmaCh
  pins := []

end Config
end Sys2Proof
end

