-- ==== Sys2Proof/Machine/Flags.lean ====
section
/-! DEFINITION. The flag word of a descriptor (30_encoding.md R90), the phase widths and lengths it
selects (R91, R92), and the descriptor checks (R93). -/

namespace Sys2Proof

/-- QIO, bit 1 (R90). -/
def Desc.qio (t : Desc) : Bool := t.flags.getLsbD 1

/-- ADDR_QUAD, bit 4 (R90). -/
def Desc.addrQuad (t : Desc) : Bool := t.flags.getLsbD 4

/-- VAR_CMD, bit 5 (R90). -/
def Desc.varCmd (t : Desc) : Bool := t.flags.getLsbD 5

/-- VAR_ADDR, bit 6 (R90). -/
def Desc.varAddr (t : Desc) : Bool := t.flags.getLsbD 6

/-- VAR_DUMMY, bit 7 (R90). -/
def Desc.varDummy (t : Desc) : Bool := t.flags.getLsbD 7

/-- CMD_QUAD, bit 9 (R90). -/
def Desc.cmdQuad (t : Desc) : Bool := t.flags.getLsbD 9

/-- The number of lines of a width, which is also its bits per beat (41_line_sequencer.md R165). -/
def LineWidth.lines : LineWidth → Nat
  | .single => 1
  | .quad => 4

/-- `w_data` (R91). -/
def widthData (dc : DevCfg) (t : Desc) : LineWidth :=
  if t.qio then .quad else dc.defaultWidth

/-- The width of a header phase whose quad flag is `flag` (R91). -/
def widthHeader (m : Multiline) (dc : DevCfg) (t : Desc) (flag : Bool) : LineWidth :=
  if flag then
    match m with
    | .absoluteQuad => .quad
    | .followData => widthData dc t
  else .single

/-- `w_cmd` (R91). -/
def widthCmd (m : Multiline) (dc : DevCfg) (t : Desc) : LineWidth := widthHeader m dc t t.cmdQuad

/-- `w_addr` (R91). -/
def widthAddr (m : Multiline) (dc : DevCfg) (t : Desc) : LineWidth := widthHeader m dc t t.addrQuad

/-- `len_cmd` (R92). -/
def lenCmd (dc : DevCfg) (t : Desc) : Nat := if t.varCmd then t.cmdLen.val else dc.commandBits.val

/-- `len_addr` (R92). -/
def lenAddr (dc : DevCfg) (t : Desc) : Nat := if t.varAddr then t.addrLen.val else dc.addressBits.val

/-- `len_dummy` (R92). -/
def lenDummy (dc : DevCfg) (t : Desc) : Nat := if t.varDummy then t.dummyLen else dc.dummyBits

/-- `len_data` (R92). -/
def lenData (t : Desc) : Nat := t.bitLength

/-- WF1 (R93): the reserved flag bits are 0. -/
def Desc.wf1 (t : Desc) : Bool := t.flags &&& 0xFD0D == 0

/-- WF2 (R93): a length given by a VAR flag is 0. -/
def Desc.wf2 (t : Desc) : Bool :=
  (!t.varCmd || t.cmdLen == 0) && (!t.varAddr || t.addrLen == 0) && (!t.varDummy || t.dummyLen == 0)

/-- WF3 (R93): the bit length is eight times the payload's bytes. -/
def Desc.wf3 (t : Desc) : Bool := t.bitLength == 8 * t.tx.length

/-- WF5 (R93): each phase's width divides its length. -/
def Desc.wf5 (m : Multiline) (dc : DevCfg) (t : Desc) : Bool :=
  lenCmd dc t % (widthCmd m dc t).lines == 0 && lenAddr dc t % (widthAddr m dc t).lines == 0 &&
    lenData t % (widthData dc t).lines == 0

/-- WF6 (R93): the field ranges. -/
def Desc.wf6 (t : Desc) : Bool := decide (t.cmd < 2 ^ 8) && decide (t.addr < 2 ^ 24)

/-- The checks of R93 whose failure is refused R_DESCRIPTOR: all but WF4. -/
def Desc.wf (m : Multiline) (dc : DevCfg) (t : Desc) : Bool :=
  t.wf1 && t.wf2 && t.wf3 && t.wf5 m dc && t.wf6

end Sys2Proof
end

