-- ==== Sys2Proof/WellFormed.lean ====
section
/-! DEFINITION. The checks on an instruction's own fields: the hardwired bits of 10_state.md R26 and R28, the
selector of 30_encoding.md R81, the descriptor checks of R93 that need no state (WF1, WF2, WF3, WF6), and
the payload of a DATA_FRAME (R198). WF4 and WF5 read the configuration: POLLING_TRANSMIT makes them. -/

namespace Sys2Proof

/-- R28: `master` and `quad_gpio` are hardwired 1. -/
def BusReq.wellFormed (bc : BusReq) : Bool := bc.master && bc.quadGpio

/-- R26: `no_cs` and `half_duplex` are hardwired 1. The ranges of the lengths are in their types. -/
def DevCfg.wellFormed (dc : DevCfg) : Bool := dc.noCs && dc.halfDuplex

/-- An instruction is well-formed where each of its fields is in the range the spec gives it. -/
def Instr.wellFormed : Instr → Bool
  | .init _ _ _ _ _ _ => true
  | .deinit => true
  | .writeCmd _ _ => true
  | .writeData _ => true
  | .writeDataRotate _ _ => true
  | .readAttr sel => decide (sel.toNat ≤ 8)
  | .busInitialize _ bc => bc.wellFormed
  | .deviceAttach _ dc => dc.wellFormed
  | .deviceDetach _ => true
  | .busFree _ => true
  | .pollingTransmit _ t => t.wf1 && t.wf2 && t.wf3 && t.wf6
  | .cmdFrame _ _ => true
  | .hsFrame => true
  | .dataFrame tx => !tx.isEmpty

end Sys2Proof
end

