-- ==== Sys2Proof/Decode.lean ====
section
/-! DEFINITION. The decoder of packets, total, with its rejections by name (30_encoding.md R80, R95, R97;
60_exceptions.md R269), and the encoder written from the same tables. -/

namespace Sys2Proof

/-- What a packet decodes to: an instruction, or the refusal R97 names. -/
inductive Decoded
  | ok (i : Instr)
  | reservedOp
  | internalOp
  deriving DecidableEq, Repr

/-- OP = REQ[3:0] (R80). -/
def reqOp (req : BitVec 8) : Nat := (req.extractLsb' 0 4).toNat

/-- REQ[7:4], which must be 0 (R80). -/
def reqReserved (req : BitVec 8) : Nat := (req.extractLsb' 4 4).toNat

/-- The request words of the host interface (R80). -/
def decodeHost (req : BitVec 8) (o : Operands) : Decoded :=
  if reqReserved req ≠ 0 then .reservedOp
  else
    match reqOp req with
    | 0x1 => .ok (.init o.id o.sck o.pins o.baudrate o.polarity o.phase)
    | 0x2 => .ok .deinit
    | 0x3 => .ok (.writeCmd o.c o.params)
    | 0x4 => .ok (.writeData o.data)
    | 0x5 => .ok (.writeDataRotate o.data o.scratch)
    | 0x6 => .ok (.readAttr o.sel)
    | 0x8 => .internalOp
    | 0x9 => .internalOp
    | 0xA => .internalOp
    | 0xB => .internalOp
    | 0xC => .internalOp
    | _ => .reservedOp

/-- The request words of the internal controller interface (R82). -/
def decodeController (req : BitVec 8) (o : Operands) : Decoded :=
  if reqReserved req ≠ 0 then .reservedOp
  else
    match reqOp req with
    | 0x8 => .ok (.busInitialize o.id o.bc)
    | 0x9 => .ok (.deviceAttach o.id o.dc)
    | 0xA => .ok (.deviceDetach o.handle)
    | 0xB => .ok (.busFree o.id)
    | 0xC => .ok (.pollingTransmit o.handle o.t)
    | _ => .reservedOp

/-- FK (R84): `flags ++ cmd ++ addr`. -/
def Desc.key (t : Desc) : BitVec 48 := t.flags ++ BitVec.ofNat 8 t.cmd ++ BitVec.ofNat 24 t.addr

/-- A descriptor from its frame key and payload, with `bit_length` as R96 computes it and the variable
lengths 0. -/
def Desc.ofKey (fk : BitVec 48) (tx : List Byte) : Desc where
  flags := fk.extractLsb' 32 16
  cmd := (fk.extractLsb' 24 8).toNat
  addr := (fk.extractLsb' 0 24).toNat
  cmdLen := 0
  addrLen := 0
  dummyLen := 0
  tx := tx
  bitLength := 8 * tx.length

/-- The frame kinds (R94); `raw` is a frame of no framer kind (R95). -/
inductive FrameKind
  | cmd (c : BitVec 8)
  | hs
  | data
  | raw
  deriving DecidableEq, Repr

/-- A frame's kind, by mask and match of its frame key (R95). The match values are R95's literals, whatever
WC_CMD, HS_CMD and HS_ADDR are (log entry 22, DESIGN CHOICE). -/
def frameKind (fk : BitVec 48) : FrameKind :=
  if fk &&& 0xFFFFFFFF00FF = 0x021002000000 then .cmd (fk.extractLsb' 8 8)
  else if fk &&& 0xFFFFFFFFFFFF = 0x000232002C00 then .hs
  else if fk &&& 0xFFFFFFFFFFFF = 0x00E200000000 then .data
  else .raw

/-- A frame handed to the controller. A frame of no framer kind, and an HS_FRAME key beside a payload
(R94: an HS_FRAME's is empty), is transmitted by POLLING_TRANSMIT as it stands (R95, log entry 5). A frame of a
framer kind becomes that frame, which is transmitted with the parameters' command and address and not with its
key's; the two differ where a parameter is not at its default (log entry 22, DESIGN CHOICE). -/
def decodeFrame (handle : Nat) (fk : BitVec 48) (tx : List Byte) : Decoded :=
  match frameKind fk with
  | .cmd c => .ok (.cmdFrame c tx)
  | .hs => if tx = [] then .ok .hsFrame else .ok (.pollingTransmit handle (.ofKey fk tx))
  | .data => .ok (.dataFrame tx)
  | .raw => .ok (.pollingTransmit handle (.ofKey fk tx))

/-- The decoder. -/
def decode : Packet → Decoded
  | .host req ops => decodeHost req ops
  | .controller req ops => decodeController req ops
  | .frame h fk tx => decodeFrame h fk tx

/-- The frame key of CMD_FRAME for the logical command `c` (R94, R96): `c` in FK[15:8]. -/
def cmdFrameKey (c : BitVec 8) : BitVec 48 := 0x021002000000 ||| (c.setWidth 48 <<< 8)

/-- The encoder: the packet of an instruction (R80, R94). -/
def encode : Instr → Packet
  | .init id sck pins baud pol ph =>
    .host 0x01
      { id := id, sck := sck, pins := pins, baudrate := baud, polarity := pol, phase := ph }
  | .deinit => .host 0x02 {}
  | .writeCmd c params => .host 0x03 { c := c, params := params }
  | .writeData data => .host 0x04 { data := data }
  | .writeDataRotate data scratch => .host 0x05 { data := data, scratch := scratch }
  | .readAttr sel => .host 0x06 { sel := sel }
  | .busInitialize id bc => .controller 0x08 { id := id, bc := bc }
  | .deviceAttach id dc => .controller 0x09 { id := id, dc := dc }
  | .deviceDetach h => .controller 0x0A { handle := h }
  | .busFree id => .controller 0x0B { id := id }
  | .pollingTransmit h t => .controller 0x0C { handle := h, t := t }
  | .cmdFrame c tx => .frame 0 (cmdFrameKey c) tx
  | .hsFrame => .frame 0 0x000232002C00 []
  | .dataFrame tx => .frame 0 0x00E200000000 tx

/-- The packet in which a word of spec/opcode_table.json is delivered, its operands the words of zeros: a
request word of 8 bits at the interface REQ[3] tells (R80, R82), a frame key of 48 bits as a frame
(log entry 2). -/
def tableWordPacket (nbits w : Nat) : Option Packet :=
  if nbits = 48 then some (.frame 0 (BitVec.ofNat 48 w) [])
  else if nbits = 8 then
    if (BitVec.ofNat 8 w).getLsbD 3 then some (.controller (BitVec.ofNat 8 w) {})
    else some (.host (BitVec.ofNat 8 w) {})
  else none

/-- The instruction the decoder reads from a word of the opcode table. -/
def decodeTableWord (nbits w : Nat) : Option Instr :=
  match tableWordPacket nbits w with
  | none => none
  | some p =>
    match decode p with
    | .ok i => some i
    | .reservedOp => none
    | .internalOp => none

end Sys2Proof
end

