-- ==== Sys2Proof/Machine/State.lean ====
section
/-! DEFINITION. The state of the machine (10_state.md), its reset (R51), and the reasons a run ends
(60_exceptions.md R264, R265). Plain data. -/

namespace Sys2Proof.Machine

/-- The model faults of R264. The request that commits one leaves it in the mark `S.fault`, and the next
step stops with it (log entry 3). Each is safe: the machine stops where the spec says the run ends. -/
inductive Fault
  /-- F_LIFECYCLE: raised by a request or primitive issued in the wrong lifecycle state. Safe. -/
  | lifecycle
  /-- F_ALIAS: raised by WRITE_DATA_ROTATE whose source and scratch share a byte. Safe. -/
  | aliased
  /-- F_UNWRITTEN: raised by a read of a state field that holds no value. Safe. -/
  | unwritten
  /-- F_BOUNDS: raised by MemRead or MemWrite outside its buffer. Safe. -/
  | bounds
  deriving DecidableEq, Repr

/-- The refusals of R265. The request that meets one leaves it in the mark `S.refused`, and the next step
stops with it (log entry 3). Each is safe: the model claims nothing beyond it. -/
inductive Refusal
  /-- An instruction without a meaning in this model; none is left. Safe. -/
  | notModelled (mnemonic : String)
  /-- R_RESERVED_OP: raised by a reserved request word, and by READ_ATTR with a reserved selector. Safe. -/
  | reservedOp
  /-- R_INTERNAL_OP: raised by a controller primitive issued at the host interface. Safe. -/
  | internalOp
  /-- R_DESCRIPTOR: raised by POLLING_TRANSMIT on a descriptor that fails a check of R93. Safe. -/
  | descriptor
  /-- R_CONCURRENT: raised by another thread's request, and by its write to a buffer operand, while a request is
  in progress. Safe. -/
  | concurrent
  /-- R_PARAM: raised by an ill-formed parameter configuration. Safe. -/
  | param
  deriving DecidableEq, Repr

/-- S.life (R24). -/
inductive Life
  | uninit
  | active
  | released
  deriving DecidableEq, Repr

/-- S.bus (R25). -/
inductive BusState
  | free
  | ready
  deriving DecidableEq, Repr

/-- S.dev (R25). -/
inductive DevState
  | detached
  | attached
  deriving DecidableEq, Repr

/-- The handle attributes (R21). -/
structure Cfg where
  busId    : Nat
  sckPin   : Nat
  dPin     : Quad Nat
  baudrate : Nat
  cpol     : BitVec 1
  cpha     : BitVec 1
  deriving DecidableEq, Repr

/-- The bus configuration (R28): what BUS_INITIALIZE was given, and the DMA channel the bus chose. -/
structure BusCfg extends BusReq where
  dmaCh : Nat
  deriving DecidableEq, Repr

/-- The requests that keep a position (R40). -/
inductive SeqOp
  | writeCmd
  | writeData
  | writeDataRotate
  deriving DecidableEq, Repr

/-- The positions of a request (R40, R206, 43_rotator.md R231, R240). -/
inductive Pos
  | frame
  | hs
  | chunk (off : Nat)
  | transpose
  | delegate (p : Pos)
  | group (r : Nat)
  deriving DecidableEq, Repr

/-- S.seq.req (R40). -/
inductive ReqPos
  | idle
  | busy (op : SeqOp) (pos : Pos)
  deriving DecidableEq, Repr

/-- The phases of a frame (R41). -/
inductive Phase
  | cmd
  | addr
  | dummy
  | data
  deriving DecidableEq, Repr

/-- S.seq (R40, R41). -/
structure Seq where
  req   : ReqPos
  /-- `none` is the phase IDLE. -/
  phase : Option Phase
  bit   : Nat
  deriving DecidableEq, Repr

/-- S.lines (R43). -/
structure Lines where
  sck : SckLevel
  d   : Quad Level
  deriving DecidableEq, Repr

/-- A beat (41_line_sequencer.md R160): what the block drives on D0..D3 in one SCK cycle, and its phase. -/
structure Beat where
  d   : Quad Level
  tag : Phase
  deriving DecidableEq, Repr

/-- An entry of S.log (R45): the descriptor, its status, and the number of beats driven. -/
structure LogEntry where
  t  : Desc
  st : Nat
  k  : Nat
  deriving DecidableEq, Repr

/-- The return codes (60_exceptions.md R260). -/
inductive Code
  | ok
  | configArgcount
  | configType
  | configValue
  | busIo
  | tx
  | tooLong
  | geometry
  deriving DecidableEq, Repr

/-- The operation names recorded in S.err (R260, 42_framer.md R194). -/
inductive OpName
  | initRequest
  | busInitialize
  | deviceAttach
  | writeCommand
  | writeDataHandshake
  | writeDataChunk
  | writeDataRotate
  | rotateHandshake
  | rotateChunk
  deriving DecidableEq, Repr

/-- S.err where it is not none (R46). -/
structure ErrRec where
  code   : Code
  opname : OpName
  status : Option Nat
  offset : Option Nat
  deriving DecidableEq, Repr

/-- What the last request returned to its caller (R17, R260, R263; log entry 12). -/
inductive Ret
  /-- It has not returned: none was issued yet, or it faulted, was refused, or hangs. -/
  | nothing
  | code (c : Code)
  /-- READ_ATTR's value (R134). -/
  | value (v : Nat)
  /-- A primitive's status (R121, R150). -/
  | status (st : Nat)
  /-- DEVICE_ATTACH's status and handle (R123). -/
  | attach (st : Nat) (h : Option Nat)
  /-- A primitive without a result (R125, R127). -/
  | done
  deriving DecidableEq, Repr

/-- The coming answers of the bus primitive, in order, for each primitive. Where a list is used up the
answer is a free value of Config, numbered by `draws` (log entry 6). -/
structure Oracle where
  busInit : List Nat
  /-- The status, and the handle returned with status 0. -/
  attach  : List (Nat × Nat)
  detach  : List Nat
  busFree : List Nat
  tx      : List TxAnswer
  draws   : Nat
  deriving DecidableEq, Repr

/-- What the outside does to the block: it delivers a packet, or writes bytes of host memory. -/
inductive Event
  | packet (p : Packet)
  | hostWrite (addr : Nat) (bytes : List Byte)
  deriving DecidableEq, Repr

/-- An action of another thread: it comes once `wait` more points of time have passed in requests in progress
(60_exceptions.md R276; log entry 8). -/
structure Arrival where
  wait  : Nat
  event : Event
  deriving DecidableEq, Repr

/-- Host memory: the listed bytes, in rising order of address, none equal to what an unlisted address
reads as (log entry 1). -/
abbrev Memory := List Host.Cell

/-- The state: S of 10_state.md R20, the parameters and host memory (log entries 1 and 9), and the
model's own fields. -/
structure State where
  life      : Life
  bus       : BusState
  dev       : DevState
  /-- S.cfg; `none` holds no value (R21). -/
  cfg       : Option Cfg
  /-- S.dev_handle; `none` holds no value (R21). -/
  devHandle : Option Nat
  /-- S.devcfg; `none` holds no value (R26). -/
  devcfg    : Option DevCfg
  /-- S.buscfg; `none` holds no value (R28). -/
  buscfg    : Option BusCfg
  seq       : Seq
  /-- S.T (R30). -/
  desc      : Option Desc
  lines     : Lines
  queue     : List Desc
  log       : List LogEntry
  err       : Option ErrRec
  fault     : Option Fault
  refused   : Option Refusal
  /-- The parameters of R7 to R9. -/
  params    : Params
  /-- Host memory (R50). -/
  mem       : Memory
  /-- The model's own: the result of the last request. -/
  ret       : Ret
  /-- The model's own: the buffer operands of the request in progress (R61). -/
  held      : List Buf
  /-- The model's own: every beat driven so far (R169). -/
  wire      : List Beat
  /-- The model's own: the answers of the bus primitive. -/
  oracle    : Oracle
  /-- The model's own: the host's pending actions, in order (R13). -/
  inbox     : List Event
  /-- The model's own: the coming actions of other threads, in order (R276). -/
  others    : List Arrival
  deriving DecidableEq, Repr

/-- The lines not driven: SCK unspecified, every data line Z (R51, R52). -/
def Lines.undriven : Lines := ⟨.unspecified, ⟨.z, .z, .z, .z⟩⟩

/-- No request and no frame in progress (R40, R41). -/
def Seq.idle : Seq := ⟨.idle, none, 0⟩

/-- The state right after reset (R51, R290). -/
def State.reset : State where
  life := .uninit
  bus := .free
  dev := .detached
  cfg := none
  devHandle := none
  devcfg := none
  buscfg := none
  seq := .idle
  desc := none
  lines := .undriven
  queue := []
  log := []
  err := none
  fault := none
  refused := none
  params := Config.params
  mem := []
  ret := .nothing
  held := []
  wire := []
  oracle := ⟨[], [], [], [], [], 0⟩
  inbox := []
  others := []

/-- How a call inside a request ends: it returns, or the request has ended in the state given (by an
error, a fault, a refusal or a hang). -/
inductive Call (α : Type)
  | ret (a : α) (s : State)
  | stop (s : State)
  deriving DecidableEq, Repr

/-- How some points of time of a request in progress pass. -/
inductive Passage
  /-- They pass. -/
  | through (s : State)
  /-- After `n` of them another thread's action was refused, in the state given. -/
  | cut (n : Nat) (s : State)
  deriving DecidableEq, Repr

/-- What a step finds before it: what stops it, what it takes in, or the instruction it is to run. -/
inductive Fetched
  /-- The run has ended with a fault. -/
  | faulted (f : Fault)
  /-- The run has ended with a refusal. -/
  | refused (r : Refusal)
  /-- The step refuses: it sets the mark. -/
  | refuse (r : Refusal)
  /-- The step runs no instruction. -/
  | pass (s : State)
  /-- The step runs `i` in `s`. -/
  | run (i : Instr) (s : State)
  deriving DecidableEq, Repr

end Sys2Proof.Machine
end

