-- ==== Sys2Proof/Machine/Operands.lean ====
section
/-! DEFINITION. Operand forms and assembled fields (30_encoding.md R81, R96), bit order (20_memory.md R62,
R63), the three frame constructors (42_framer.md R192, R196, R198), and the parameters' own operations
(00_scope.md R8). -/

namespace Sys2Proof.Machine

/-! ### Bits -/

/-- The low `len` bits of `v`, the most significant first (R63). -/
def bitsMsb : Nat → Nat → List Bool
  | 0, _ => []
  | len + 1, v => v.testBit len :: bitsMsb len v

/-- The bits of a payload: bytes in ascending index, each most significant bit first (R62, R157). -/
def payloadBits (tx : List Byte) : List Bool := tx.flatMap fun b => bitsMsb 8 b.toNat

/-- The level of a driven line. -/
def Level.ofBool (b : Bool) : Level := if b then .one else .zero

/-- The idle level of SCK in an SPI mode: `mode[1]`, CPOL (41_line_sequencer.md R164). -/
def idleSck (mode : BitVec 2) : SckLevel := if mode.getLsbD 1 then .high else .low

/-- `mode = phase | (polarity << 1)` (10_state.md R27, 30_encoding.md R96). -/
def spiMode (cpol cpha : Nat) : BitVec 2 := BitVec.ofNat 2 (cpha ||| (cpol <<< 1))

/-! ### Buffers -/

/-- The address after a buffer's last byte. -/
def bufEnd (b : Buf) : Nat := b.base + b.len

/-- Whether two buffers share a byte (20_memory.md R76). -/
def sharesByte (a b : Buf) : Bool :=
  decide (max a.base b.base < min (bufEnd a) (bufEnd b))

/-- The operand buffer of `params`: absent means empty (30_encoding.md R100). -/
def paramBuf (params : Option Buf) : Buf := params.getD ⟨0, 0⟩

/-- The length of the chunk at offset `off` of a payload of `len` bytes (R96, 42_framer.md R200). -/
def chunkLen (p : Params) (len off : Nat) : Nat := min p.chunkBytes (len - off)

/-- ROT_SQUARE_BYTES (00_scope.md R7). -/
def rotSquareBytes (p : Params) : Nat := p.rotW * p.rotH * p.pixelBytes

/-- `rows` of the fallback (R96, 43_rotator.md R240). -/
def rotRows (data scratch : Buf) : Nat := data.len / scratch.len

/-- `cols` of the fallback, in pixels (R96, R240; log entry 17). -/
def rotCols (p : Params) (scratch : Buf) : Nat := scratch.len / p.pixelBytes

/-! ### Frames -/

/-- CMD_FRAME(C, P) (R192): `addr = zext_24(C) << 8`. -/
def cmdFrame (p : Params) (c : BitVec 8) (tx : List Byte) : Desc where
  flags := 0x0210
  cmd := p.wcCmd.toNat
  addr := c.toNat <<< 8
  cmdLen := 0
  addrLen := 0
  dummyLen := 0
  tx := tx
  bitLength := 8 * tx.length

/-- HS_FRAME (R196). -/
def hsFrame (p : Params) : Desc where
  flags := 0x0002
  cmd := p.hsCmd.toNat
  addr := p.hsAddr.toNat
  cmdLen := 0
  addrLen := 0
  dummyLen := 0
  tx := []
  bitLength := 0

/-- DATA_FRAME(B) (R198). -/
def dataFrame (tx : List Byte) : Desc where
  flags := 0x00E2
  cmd := 0
  addr := 0
  cmdLen := 0
  addrLen := 0
  dummyLen := 0
  tx := tx
  bitLength := 8 * tx.length

/-! ### The configurations INIT passes -/

/-- What INIT passes to BUS_INITIALIZE (40_bus_manager.md R122). -/
def initBusReq (p : Params) (sck : Nat) (d : Quad Nat) : BusReq where
  dataPin := d
  sckPin := sck
  maxTransferSize := p.maxXferBytes
  master := true
  quadGpio := true

/-- What INIT passes to DEVICE_ATTACH (R124). -/
def initDevCfg (p : Params) (baudrate cpol cpha : Nat) : DevCfg where
  commandBits := p.cmdBits
  addressBits := p.addrBits
  dummyBits := p.dummyBits
  mode := spiMode cpol cpha
  clockHz := baudrate
  noCs := true
  halfDuplex := true
  queueDepth := p.queueDepth
  defaultWidth := .single

/-! ### Parameters -/

/-- Membership in STATUS (R8). -/
def statusMem (st : Nat) : StatusSet → Bool
  | .any => true
  | .only codes => codes.contains st

/-- The status a raw answer stands for: itself where it is in STATUS, else the member at its index,
counted round the list (log entry 6). -/
def pickStatus (raw : Nat) : StatusSet → Nat
  | .any => raw
  | .only codes => if codes.contains raw then raw else codes.getD (raw % codes.length) 0

/-- A well-formed parameter configuration: the causes of R_PARAM (60_exceptions.md R265), and ST_TOO_LONG a
non-zero member of STATUS (41_line_sequencer.md R151; log entry 9), and NUM_DATA_LINES the four lines D0..D3
(log entry 17). -/
def paramsOk (p : Params) : Bool :=
  !(p.chunkBytes == 0) && decide (p.chunkBytes ≤ p.maxXferBytes) && statusMem 0 p.statuses &&
    !(p.stTooLong == 0) && statusMem p.stTooLong p.statuses && p.numDataLines == 4

/-- `resolve_pin` (R8), of every natural number: the set PIN_IDS is left open (log entry 10). -/
def resolvePin (p : Params) (pin : Nat) : Option Nat :=
  match p.pins.lookup pin with
  | some r => r
  | none => Config.resolvePin pin

/-- The numbers of the return codes (60_exceptions.md R260). -/
def codeNumber : Code → Nat
  | .ok => 0
  | .configArgcount => 1
  | .configType => 2
  | .configValue => 3
  | .busIo => 4
  | .tx => 5
  | .tooLong => 6
  | .geometry => 7

/-- The strings of the operation names (R260, 42_framer.md R194). -/
def opNameText : OpName → String
  | .initRequest => "initialize"
  | .busInitialize => "bus initialize"
  | .deviceAttach => "device attach"
  | .writeCommand => "write_command"
  | .writeDataHandshake => "write_data handshake"
  | .writeDataChunk => "write_data chunk"
  | .writeDataRotate => "write_data_rotate"
  | .rotateHandshake => "write_data_rotate handshake"
  | .rotateChunk => "write_data_rotate chunk"

end Sys2Proof.Machine
end

