-- ==== Sys2Proof/Machine/Ops.lean ====
section
/-! DEFINITION. The operations every instruction is written over: host memory (20_memory.md R60), the ends of
a request (60_exceptions.md R262 to R265), the actions of other threads (R276), the answers of the bus primitive (00_scope.md R12), loops, and
the attributes that may hold no value (10_state.md R21). -/

namespace Sys2Proof.Machine

/-! ### Host memory -/

/-- What a byte of host memory that is not listed reads as (log entry 1). -/
def unlistedByte : Byte := 0

/-- One byte. -/
def memByte : Memory → Nat → Byte
  | [], _ => unlistedByte
  | (x, c) :: m, a => if x = a then c else memByte m a

/-- Store one byte, keeping the canonical form. -/
def memSet : Memory → Nat → Byte → Memory
  | [], a, b => if b = unlistedByte then [] else [(a, b)]
  | (x, c) :: m, a, b =>
    if a < x then
      if b = unlistedByte then (x, c) :: m else (a, b) :: (x, c) :: m
    else if a = x then
      if b = unlistedByte then m else (a, b) :: m
    else (x, c) :: memSet m a b

/-- The `n` bytes from address `a`. -/
def memBytes (m : Memory) (a : Nat) : Nat → List Byte
  | 0 => []
  | n + 1 => memByte m a :: memBytes m (a + 1) n

/-- Store bytes from address `a` on, in ascending order. -/
def memSetBytes (m : Memory) (a : Nat) : List Byte → Memory
  | [] => m
  | b :: bs => memSetBytes (memSet m a b) (a + 1) bs

/-- Every listed address is above `lo`, in strictly rising order, and no listed byte is the unlisted one. -/
def memWfAbove (lo : Nat) : Memory → Bool
  | [] => true
  | (x, c) :: m => decide (lo ≤ x) && !(c == unlistedByte) && memWfAbove (x + 1) m

/-- The canonical form of memory. -/
def Memory.wf (m : Memory) : Bool := memWfAbove 0 m

/-! ### How a request ends -/

/-- `fault F` (R264). -/
def setFault (f : Fault) (s : State) : State := { s with fault := some f, ret := .nothing }

/-- `refuse R` (R265). -/
def setRefused (r : Refusal) (s : State) : State := { s with refused := some r, ret := .nothing }

/-- `raise E(opname, status, offset)` (R262). -/
def raise (c : Code) (op : OpName) (status offset : Option Nat) (s : State) : State :=
  { s with err := some ⟨c, op, status, offset⟩, seq := .idle, held := [], ret := .code c }

/-- `S.err <- none`, with which a request starts (10_state.md R46). -/
def clearErr (s : State) : State := { s with err := none }

/-- `S.seq.req <- BUSY(op, pos)` (R40). -/
def setPos (op : SeqOp) (pos : Pos) (s : State) : State :=
  { s with seq := { s.seq with req := .busy op pos } }

/-- `S.seq.req <- IDLE`. -/
def setReqIdle (s : State) : State := { s with seq := { s.seq with req := .idle }, held := [] }

/-- The buffer operands of the request that starts (R61). -/
def setHeld (bs : List Buf) (s : State) : State := { s with held := bs }

/-- The request returns (R263). -/
def setRet (r : Ret) (s : State) : State := { s with ret := r }

/-- A call followed by another. -/
def andThen {α β : Type} (c : Call α) (f : α → State → Call β) : Call β :=
  match c with
  | .ret a s => f a s
  | .stop s => .stop s

/-- A request's outcome: it returns `r a`, or has ended before. -/
def finish {α : Type} (r : α → Ret) (c : Call α) : Host.Outcome State Fault Refusal :=
  match c with
  | .ret a s => .next (setRet (r a) s)
  | .stop s => .next s

/-- `for i in a .. a + n - 1` (00_scope.md R12). -/
def forLoop (body : Nat → State → Call Unit) : Nat → Nat → State → Call Unit
  | 0, _, s => .ret () s
  | n + 1, i, s => andThen (body i s) fun _ s' => forLoop body n (i + 1) s'

/-! ### Other threads (60_exceptions.md R276, 20_memory.md R61; log entry 8) -/

/-- A write of host memory by the host. -/
def hostWrite (addr : Nat) (bytes : List Byte) (s : State) : State :=
  { s with mem := memSetBytes s.mem addr bytes }

/-- Whether a write of `n` bytes from `addr` on touches a buffer operand of the request in progress (R61). -/
def touchesHeld (addr n : Nat) (s : State) : Bool := s.held.any fun b => sharesByte ⟨addr, n⟩ b

/-- R_CONCURRENT, for the action `e` that comes now, before the actions `as`. -/
def refuseArrival (e : Event) (as : List Arrival) (s : State) : State :=
  setRefused .concurrent { s with others := ⟨0, e⟩ :: as }

/-- `n` points of time pass while a request is in progress. Another thread's request, and its write to a buffer
operand, are refused; a write elsewhere is not the request's concern. -/
def passPoints : List Arrival → Nat → State → Passage
  | [], _, s => .through { s with others := [] }
  | a :: as, n, s =>
    if n ≤ a.wait then .through { s with others := ⟨a.wait - n, a.event⟩ :: as }
    else
      match a.event with
      | .packet _ => .cut a.wait (refuseArrival a.event as s)
      | .hostWrite x bs =>
        if touchesHeld x bs.length s then .cut a.wait (refuseArrival a.event as s)
        else
          match passPoints as (n - a.wait) (hostWrite x bs s) with
          | .through s' => .through s'
          | .cut k s' => .cut (a.wait + k) s'

/-- `n` points of time pass: in a request that keeps a position, another thread's actions may come (R276:
`S.seq.req ≠ IDLE`). -/
def passTime (n : Nat) (s : State) : Passage :=
  if s.seq.req = .idle then .through s else passPoints s.others n s

/-- One point of time passes. -/
def passPoint (s : State) : Call Unit :=
  match passTime 1 s with
  | .through s' => .ret () s'
  | .cut _ s' => .stop s'

/-! ### MemRead and MemWrite -/

/-- `MemRead(B, off, n)` (R12). -/
def memRead (b : Buf) (off n : Nat) (s : State) : Call (List Byte) :=
  if off + n ≤ b.len then .ret (memBytes s.mem (b.base + off) n) s
  else .stop (setFault .bounds s)

/-- `MemWrite(B, off, n, v)` with `n` the number of bytes of `v` (R12). -/
def memWrite (b : Buf) (off : Nat) (v : List Byte) (s : State) : Call Unit :=
  if off + v.length ≤ b.len then .ret () { s with mem := memSetBytes s.mem (b.base + off) v }
  else .stop (setFault .bounds s)

/-! ### The answers of the bus primitive (R12, 92_eei_decisions.md D14) -/

/-- The status of a BUS_INITIALIZE. -/
def drawBusInit (s : State) : Nat × State :=
  match s.oracle.busInit with
  | a :: as => (pickStatus a s.params.statuses, { s with oracle := { s.oracle with busInit := as } })
  | [] =>
    (pickStatus (Config.freeBusInit s.oracle.draws) s.params.statuses,
      { s with oracle := { s.oracle with draws := s.oracle.draws + 1 } })

/-- The status and handle of a DEVICE_ATTACH. -/
def drawAttach (s : State) : Nat × Nat × State :=
  match s.oracle.attach with
  | (a, h) :: as =>
    (pickStatus a s.params.statuses, h, { s with oracle := { s.oracle with attach := as } })
  | [] =>
    (pickStatus (Config.freeAttach s.oracle.draws) s.params.statuses, Config.freeHandle s.oracle.draws,
      { s with oracle := { s.oracle with draws := s.oracle.draws + 1 } })

/-- The status of a DEVICE_DETACH, which no rule observes (40_bus_manager.md R135). -/
def drawDetach (s : State) : Nat × State :=
  match s.oracle.detach with
  | a :: as => (pickStatus a s.params.statuses, { s with oracle := { s.oracle with detach := as } })
  | [] =>
    (pickStatus (Config.freeDetach s.oracle.draws) s.params.statuses,
      { s with oracle := { s.oracle with draws := s.oracle.draws + 1 } })

/-- The status of a BUS_FREE, which no rule observes (R135). -/
def drawBusFree (s : State) : Nat × State :=
  match s.oracle.busFree with
  | a :: as => (pickStatus a s.params.statuses, { s with oracle := { s.oracle with busFree := as } })
  | [] =>
    (pickStatus (Config.freeBusFree s.oracle.draws) s.params.statuses,
      { s with oracle := { s.oracle with draws := s.oracle.draws + 1 } })

/-- The answer to a POLLING_TRANSMIT, its status read as a member of STATUS. -/
def pickTx (a : TxAnswer) (p : Params) : TxAnswer :=
  match a with
  | .status st k => .status (pickStatus st p.statuses) k
  | .hang j => .hang j

/-- The answer to a POLLING_TRANSMIT. -/
def drawTx (s : State) : TxAnswer × State :=
  match s.oracle.tx with
  | a :: as => (pickTx a s.params, { s with oracle := { s.oracle with tx := as } })
  | [] =>
    (pickTx (Config.freeTx s.oracle.draws) s.params,
      { s with oracle := { s.oracle with draws := s.oracle.draws + 1 } })

/-! ### Fields that may hold no value (R21, R26, R28) -/

/-- Read a field; where it holds no value, F_UNWRITTEN (R264). -/
def readField {α : Type} (f : Option α) (s : State) : Call α :=
  match f with
  | some a => .ret a s
  | none => .stop (setFault .unwritten s)

/-- The first check of a host request other than INIT: F_LIFECYCLE outside ACTIVE (40_bus_manager.md R132). -/
def requireActive (s : State) : Call Unit :=
  if s.life = .active then .ret () s else .stop (setFault .lifecycle s)

end Sys2Proof.Machine
end

