-- ==== Sys2Proof/Machine/Line.lean ====
section
/-! DEFINITION. The line sequencer (41_line_sequencer.md): serialization, the beat-level step,
POLLING_TRANSMIT, and the three frames of the opcode table. -/

namespace Sys2Proof.Machine

/-! ### Serialization (R160 to R166) -/

/-- A single-line beat (R161). -/
def singleBeat (tag : Phase) (b : Bool) : Beat := ⟨⟨Level.ofBool b, .z, .z, .z⟩, tag⟩

/-- A quad-line beat: the first bit in time on D3 (R162). -/
def quadBeat (tag : Phase) (b1 b2 b3 b4 : Bool) : Beat :=
  ⟨⟨Level.ofBool b4, Level.ofBool b3, Level.ofBool b2, Level.ofBool b1⟩, tag⟩

/-- A dummy beat (R163). -/
def dummyBeat : Beat := ⟨⟨.z, .z, .z, .z⟩, .dummy⟩

/-- Bits in groups of four, each a quad beat. WF5 leaves no shorter group. -/
def quadBeats (tag : Phase) : List Bool → List Beat
  | b1 :: b2 :: b3 :: b4 :: bs => quadBeat tag b1 b2 b3 b4 :: quadBeats tag bs
  | _ => []

/-- The beats of a phase that shifts out `bits` (R165, R166). -/
def phaseBeats (w : LineWidth) (tag : Phase) (bits : List Bool) : List Beat :=
  match w with
  | .single => bits.map (singleBeat tag)
  | .quad => quadBeats tag bits

/-- `serialize(T)` (R166), of a descriptor that passes the checks of 30_encoding.md R93. -/
def serialize (m : Multiline) (dc : DevCfg) (t : Desc) : List Beat :=
  phaseBeats (widthCmd m dc t) .cmd (bitsMsb (lenCmd dc t) t.cmd) ++
    phaseBeats (widthAddr m dc t) .addr (bitsMsb (lenAddr dc t) t.addr) ++
    List.replicate (lenDummy dc t) dummyBeat ++
    phaseBeats (widthData dc t) .data (payloadBits t.tx)

/-- The wire stream of a log (R169). -/
def wireOf (m : Multiline) (dc : DevCfg) (log : List LogEntry) : List Beat :=
  log.flatMap fun e => (serialize m dc e.t).take e.k

/-! ### The beat-level step (10_state.md R41, R168) -/

/-- The length of a phase: bits, and clocks for DUMMY (R92). -/
def phaseLen (dc : DevCfg) (t : Desc) : Phase → Nat
  | .cmd => lenCmd dc t
  | .addr => lenAddr dc t
  | .dummy => lenDummy dc t
  | .data => lenData t

/-- What a beat adds to `S.seq.bit`: its phase's width, and 1 for a DUMMY beat. -/
def phaseStep (m : Multiline) (dc : DevCfg) (t : Desc) : Phase → Nat
  | .cmd => (widthCmd m dc t).lines
  | .addr => (widthAddr m dc t).lines
  | .dummy => 1
  | .data => (widthData dc t).lines

/-- The first phase of a list whose length is not 0. -/
def firstPhase (dc : DevCfg) (t : Desc) : List Phase → Option Phase
  | [] => none
  | p :: ps => if phaseLen dc t p = 0 then firstPhase dc t ps else some p

/-- The phases after a phase (R153). -/
def phasesAfter : Phase → List Phase
  | .cmd => [.addr, .dummy, .data]
  | .addr => [.dummy, .data]
  | .dummy => [.data]
  | .data => []

/-- SCK after the leading and after the trailing edge of a beat: one full period, at the end of which it is
at its idle level again (R164, R168). -/
def sckPeriod (mode : BitVec 2) : SckLevel × SckLevel :=
  (if mode.getLsbD 1 then .low else .high, idleSck mode)

/-- Whether a beat's data is valid at its leading edge; else at its trailing edge (R164: CPHA = `mode[0]`). -/
def validAtLeadingEdge (mode : BitVec 2) : Bool := !mode.getLsbD 0

/-- One beat: the lines take its values for one full SCK period, and the sequencer counts its bits and goes
on to the next phase that is not empty (R168). -/
def driveBeat (m : Multiline) (dc : DevCfg) (t : Desc) (s : State) (b : Beat) : State :=
  let bit := s.seq.bit + phaseStep m dc t b.tag
  { s with
    lines := ⟨(sckPeriod dc.mode).2, b.d⟩
    seq :=
      if bit = phaseLen dc t b.tag then ⟨s.seq.req, firstPhase dc t (phasesAfter b.tag), 0⟩
      else ⟨s.seq.req, some b.tag, bit⟩ }

/-- Drive beats in order. -/
def driveBeats (m : Multiline) (dc : DevCfg) (t : Desc) (bs : List Beat) (s : State) : State :=
  { bs.foldl (driveBeat m dc t) s with wire := s.wire ++ bs }

/-- A transmit starts: the frame is in the queue and in flight, at its first phase (R150, R168). -/
def startFrame (dc : DevCfg) (t : Desc) (s : State) : State :=
  { s with
    queue := [t]
    desc := some t
    seq := ⟨s.seq.req, firstPhase dc t [.cmd, .addr, .dummy, .data], 0⟩ }

/-- A transmit ends: its log entry, and the lines at rest (R150, 10_state.md R43, R45). -/
def endFrame (dc : DevCfg) (t : Desc) (st k : Nat) (s : State) : State :=
  { s with
    log := s.log ++ [⟨t, st, k⟩]
    queue := []
    desc := none
    seq := ⟨s.seq.req, none, 0⟩
    lines := ⟨idleSck dc.mode, ⟨.z, .z, .z, .z⟩⟩ }

/-- The number of beats driven under status `st`: all of them where it is 0, else any number up to that,
here the answer's (R173, log entry 6). -/
def beatsDriven (st k total : Nat) : Nat := if st = 0 then total else min k total

/-- The attached device's handle: F_LIFECYCLE without a device (R150, R126; log entry 15). -/
def attachedHandle (s : State) : Call Nat :=
  if s.dev = .attached then readField s.devHandle s else .stop (setFault .lifecycle s)

/-- The number of beats driven under an answer. -/
def beatsUnder (a : TxAnswer) (total : Nat) : Nat :=
  match a with
  | .status st k => beatsDriven st k total
  | .hang j => min j total

/-- What becomes of a frame with these beats under the answer `a`, as its points of time pass: of those that
pass before it is cut, each is one beat driven. -/
def settleFrame (m : Multiline) (dc : DevCfg) (t : Desc) (beats : List Beat) (a : TxAnswer) (p : Passage) :
    Call Nat :=
  let n := beatsUnder a beats.length
  match p with
  | .cut k s => .stop (driveBeats m dc t (beats.take k) s)
  | .through s =>
    match a with
    | .hang _ => .stop (setRet .nothing (driveBeats m dc t (beats.take n) s))
    | .status st _ => .ret st (endFrame dc t st n (driveBeats m dc t (beats.take n) s))

/-- The frame goes to the lines (R150 from `S.queue <- [T]` on). A point of time passes before each beat and one
more at the frame's end, also at that of a frame that drives no beat (R276, log entry 8). A frame that hangs
stays in flight, and the block takes no further step (R159, log entry 7). -/
def sendFrame (dc : DevCfg) (t : Desc) (s : State) : Call Nat :=
  let beats := serialize s.params.multiline dc t
  match drawTx (startFrame dc t s) with
  | (a, s') => settleFrame s.params.multiline dc t beats a (passTime (beatsUnder a beats.length + 1) s')

/-- The checks of POLLING_TRANSMIT after its handle check, then the frame (R150, R151). One point of time passes
in a transmit that is too long for the bus (R276, log entry 8). -/
def checkedSend (t : Desc) (s : State) : Call Nat :=
  andThen (readField s.devcfg s) fun dc s =>
    if t.wf s.params.multiline dc then
      andThen (readField s.buscfg s) fun bc s =>
        if t.tx.length > bc.maxTransferSize then andThen (passPoint s) fun _ s => .ret s.params.stTooLong s
        else sendFrame dc t s
    else .stop (setRefused .descriptor s)

/-- POLLING_TRANSMIT(h, T) (R150). -/
def pollingTransmit (h : Nat) (t : Desc) (s : State) : Call Nat :=
  andThen (attachedHandle s) fun h' s =>
    if h = h' then checkedSend t s else .stop (setFault .lifecycle s)

/-- `transmit(T)`: POLLING_TRANSMIT(S.dev_handle, T) (R150). -/
def transmit (t : Desc) (s : State) : Call Nat :=
  andThen (attachedHandle s) fun h s => pollingTransmit h t s

/-! ### The instructions -/

/-- POLLING_TRANSMIT (R150). -/
def execPollingTransmit (h : Nat) (t : Desc) (s : State) : Host.Outcome State Fault Refusal :=
  finish .status (pollingTransmit h t s)

/-- CMD_FRAME (42_framer.md R192): its transmit, with the command WC_CMD gives (log entry 22, DESIGN CHOICE:
a delivered frame key always holds 0x02). -/
def execCmdFrame (c : BitVec 8) (tx : List Byte) (s : State) : Host.Outcome State Fault Refusal :=
  finish .status (transmit (cmdFrame s.params c tx) s)

/-- HS_FRAME (R196): its transmit, with the command and address HS_CMD and HS_ADDR give (log entry 22, DESIGN
CHOICE: a delivered frame key always holds 0x32 and 0x002C00). -/
def execHsFrame (s : State) : Host.Outcome State Fault Refusal :=
  finish .status (transmit (hsFrame s.params) s)

/-- DATA_FRAME (R198): its transmit. -/
def execDataFrame (tx : List Byte) (s : State) : Host.Outcome State Fault Refusal :=
  finish .status (transmit (dataFrame tx) s)

/-! ### What an observer of the pins sees (10_state.md R29, R43, 93_implementation_defined.md U23, U24) -/

/-- The pin on which each data line is driven, with what is driven there (R29). -/
def dataPins (bc : BusCfg) (l : Lines) : List (Nat × Level) :=
  [(bc.dataPin.d0, l.d.d0), (bc.dataPin.d1, l.d.d1), (bc.dataPin.d2, l.d.d2), (bc.dataPin.d3, l.d.d3)]

/-- The pin on which SCK is driven (R29). -/
def clockPin (bc : BusCfg) (l : Lines) : Nat × SckLevel := (bc.sckPin, l.sck)

/-- The level seen on data line `k` at time `n`: a free value where the block does not drive it. -/
def seenLevel (k n : Nat) : Level → Bool
  | .zero => false
  | .one => true
  | .z => Config.freeLevel k n

/-- The level seen on SCK at time `n` between beats: a free value where it is unspecified. -/
def seenSck (n : Nat) : SckLevel → Bool
  | .low => false
  | .high => true
  | .unspecified => Config.freeLevel 4 n

end Sys2Proof.Machine
end

