-- ==== Sys2Proof/Machine/Bus.lean ====
section
/-! DEFINITION. The bus manager and the controller's lifecycle (40_bus_manager.md): INIT, DEINIT, READ_ATTR and
the four primitives they issue. -/

namespace Sys2Proof.Machine

/-! ### The primitives -/

/-- `S.buscfg <- bc with dma_ch <- DMA_CH`; the bits `master` and `quad_gpio` are hardwired 1 (R121,
10_state.md R28; log entry 16). -/
def writeBuscfg (bc : BusReq) (s : State) : State :=
  { s with
    bus := .ready
    buscfg := some { toBusReq := { bc with master := true, quadGpio := true }, dmaCh := s.params.dmaCh } }

/-- `S.devcfg <- dc`, with SCK at its idle level; the bits `no_cs` and `half_duplex` are hardwired 1 (R123,
10_state.md R26; log entry 16). -/
def writeDevcfg (dc : DevCfg) (s : State) : State :=
  { s with
    dev := .attached
    devcfg := some { dc with noCs := true, halfDuplex := true }
    lines := { s.lines with sck := idleSck dc.mode } }

/-- BUS_INITIALIZE (R121). -/
def busInitialize (bc : BusReq) (s : State) : Call Nat :=
  if s.bus = .free then
    match drawBusInit s with
    | (st, s) => .ret st (if st = 0 then writeBuscfg bc s else s)
  else .stop (setFault .lifecycle s)

/-- DEVICE_ATTACH (R123): the status, and the handle where the status is 0. -/
def deviceAttach (dc : DevCfg) (s : State) : Call (Nat × Option Nat) :=
  if s.bus = .ready ∧ s.dev = .detached then
    match drawAttach s with
    | (st, h, s) => if st = 0 then .ret (0, some h) (writeDevcfg dc s) else .ret (st, none) s
  else .stop (setFault .lifecycle s)

/-- The caller of DEVICE_ATTACH stores the handle in S.dev_handle (R123). -/
def storeHandle (h : Option Nat) (s : State) : State :=
  match h with
  | some h => { s with devHandle := some h }
  | none => s

/-- What DEVICE_DETACH writes (R125). -/
def clearDevcfg (s : State) : State := { s with dev := .detached, devcfg := none, devHandle := none }

/-- DEVICE_DETACH (R125); its status is drawn and not observed. -/
def deviceDetach (h : Nat) (s : State) : Call Unit :=
  andThen (attachedHandle s) fun h' s =>
    if h = h' then .ret () (clearDevcfg (drawDetach s).2) else .stop (setFault .lifecycle s)

/-- What BUS_FREE writes (R127). -/
def clearBuscfg (s : State) : State := { s with bus := .free, buscfg := none, lines := .undriven }

/-- BUS_FREE (R127); its status is drawn and not observed. -/
def busFree (s : State) : Call Unit :=
  if s.bus = .ready ∧ s.dev = .detached then .ret () (clearBuscfg (drawBusFree s).2)
  else .stop (setFault .lifecycle s)

/-- BUS_INITIALIZE at the controller interface. -/
def execBusInitialize (_controllerId : Nat) (bc : BusReq) (s : State) : Host.Outcome State Fault Refusal :=
  finish .status (busInitialize bc s)

/-- DEVICE_ATTACH at the controller interface; its caller stores the handle (log entry 14). -/
def execDeviceAttach (_controllerId : Nat) (dc : DevCfg) (s : State) : Host.Outcome State Fault Refusal :=
  finish (fun r => .attach r.1 r.2)
    (andThen (deviceAttach dc s) fun r s => .ret r (storeHandle r.2 s))

/-- DEVICE_DETACH at the controller interface. -/
def execDeviceDetach (h : Nat) (s : State) : Host.Outcome State Fault Refusal :=
  finish (fun _ => .done) (deviceDetach h s)

/-- BUS_FREE at the controller interface. -/
def execBusFree (_controllerId : Nat) (s : State) : Host.Outcome State Fault Refusal :=
  finish (fun _ => .done) (busFree s)

/-! ### INIT (R120, R128, R129) -/

/-- The four data pins, where there are four. -/
def fourPins : List Nat → Option (Quad Nat)
  | [a, b, c, d] => some ⟨a, b, c, d⟩
  | _ => none

/-- The GPIO indices of sck and of the data pins, resolved in the order sck, d0, d1, d2, d3 (R128). -/
def resolvePins (p : Params) (sck : Nat) (q : Quad Nat) : Option (Nat × Quad Nat) :=
  match resolvePin p sck, resolvePin p q.d0, resolvePin p q.d1, resolvePin p q.d2, resolvePin p q.d3 with
  | some g, some g0, some g1, some g2, some g3 => some (g, ⟨g0, g1, g2, g3⟩)
  | _, _, _, _, _ => none

/-- The operands INIT goes on with: GPIO indices, baud rate, polarity, phase. -/
structure InitArgs where
  sck      : Nat
  d        : Quad Nat
  baudrate : Nat
  cpol     : Nat
  cpha     : Nat
  deriving DecidableEq, Repr

/-- INIT's checks, in the order of R128; none calls a primitive. Its "4" is NUM_DATA_LINES; another value, which a
step never gets here, has no lines to drive and is refused R_PARAM (log entry 17). -/
def initCheck (sck : Nat) (pins : List Nat) (baudrate : Nat) (polarity phase : Option Nat) (s : State) :
    Call InitArgs :=
  let cpol := polarity.getD s.params.defaultCpol
  let cpha := phase.getD s.params.defaultCpha
  if pins.length ≠ s.params.numDataLines then .stop (raise .configArgcount .initRequest none none s)
  else
    match fourPins pins with
    | none => .stop (setRefused .param s)
    | some q =>
      match resolvePins s.params sck q with
      | none => .stop (raise .configType .initRequest none none s)
      | some (g, d) =>
        if baudrate = 0 ∨ 1 < cpol ∨ 1 < cpha then .stop (raise .configValue .initRequest none none s)
        else .ret ⟨g, d, baudrate, cpol, cpha⟩ s

/-- Cleanup after a failed attach (R129), then E_BUS_IO. -/
def attachFailed (st : Nat) (s : State) : Call Unit :=
  andThen (if s.params.freeBusOnAttachFail then busFree s else .ret () s) fun _ s =>
    .stop (raise .busIo .deviceAttach (some st) none s)

/-- The handle INIT creates. -/
def writeCfg (busId : Nat) (a : InitArgs) (h : Option Nat) (s : State) : State :=
  { storeHandle h s with
    cfg := some ⟨busId, a.sck, a.d, a.baudrate, BitVec.ofNat 1 a.cpol, BitVec.ofNat 1 a.cpha⟩
    life := .active }

/-- The primitives of INIT, after its checks (R120). -/
def initBus (busId : Nat) (a : InitArgs) (s : State) : Call Unit :=
  andThen (busInitialize (initBusReq s.params a.sck a.d) s) fun st s =>
    if st = 0 then
      andThen (deviceAttach (initDevCfg s.params a.baudrate a.cpol a.cpha) s) fun r s =>
        if r.1 = 0 then .ret () (writeCfg busId a r.2 s) else attachFailed r.1 s
    else .stop (raise .busIo .busInitialize (some st) none s)

/-- INIT (R120). -/
def execInit (busId sck : Nat) (pins : List Nat) (baudrate : Nat) (polarity phase : Option Nat)
    (s : State) : Host.Outcome State Fault Refusal :=
  finish (fun _ => .code .ok)
    (if s.life = .active then .stop (setFault .lifecycle s)
    else
      andThen (initCheck sck pins baudrate polarity phase (clearErr s)) fun a s => initBus busId a s)

/-! ### DEINIT and READ_ATTR -/

/-- DEINIT (R130, R131). -/
def execDeinit (s : State) : Host.Outcome State Fault Refusal :=
  finish (fun _ => .code .ok)
    (andThen (requireActive s) fun _ s =>
      andThen (attachedHandle (clearErr s)) fun h s =>
        andThen (deviceDetach h s) fun _ s =>
          andThen (readField s.cfg s) fun _ s =>
            andThen (busFree s) fun _ s => .ret () { s with life := .released })

/-- The attribute a selector names (R134); none for the reserved selectors 9..15. -/
def attrOf (c : Cfg) (sel : BitVec 4) : Option Nat :=
  match sel.toNat with
  | 0 => some c.baudrate
  | 1 => some c.cpol.toNat
  | 2 => some c.cpha.toNat
  | 3 => some c.busId
  | 4 => some c.sckPin
  | 5 => some c.dPin.d0
  | 6 => some c.dPin.d1
  | 7 => some c.dPin.d2
  | 8 => some c.dPin.d3
  | _ => none

/-- READ_ATTR (R134). -/
def execReadAttr (sel : BitVec 4) (s : State) : Host.Outcome State Fault Refusal :=
  finish .value
    (andThen (requireActive s) fun _ s =>
      andThen (readField s.cfg s) fun c s =>
        match attrOf c sel with
        | some v => .ret v s
        | none => .stop (setRefused .reservedOp s))

end Sys2Proof.Machine
end

