-- ==== Sys2Proof/Machine/Framer.lean ====
section
/-! DEFINITION. The transaction framer (42_framer.md): WRITE_CMD and WRITE_DATA. -/

namespace Sys2Proof.Machine

/-- A transmit of the framer, and what it does with the status under TX_STATUS_POLICY (R194). -/
def framedSend (op : OpName) (offset : Option Nat) (t : Desc) (s : State) : Call Unit :=
  andThen (transmit t s) fun st s =>
    if st ≠ 0 ∧ s.params.txPolicy = .checked then .stop (raise .tx op (some st) offset s)
    else .ret () s

/-- WRITE_CMD after its lifecycle check (R190, R191). -/
def writeCmdBody (c : BitVec 8) (b : Buf) (s : State) : Call Unit :=
  andThen (readField s.buscfg (clearErr s)) fun bc s =>
    if b.len > bc.maxTransferSize then .stop (raise .tooLong .writeCommand none none s)
    else
      andThen (memRead b 0 b.len (setPos .writeCmd .frame (setHeld [b] s))) fun tx s =>
        andThen (framedSend .writeCommand (some 0) (cmdFrame s.params c tx) s) fun _ s =>
          .ret () (setReqIdle s)

/-- WRITE_CMD (R190). -/
def execWriteCmd (c : BitVec 8) (params : Option Buf) (s : State) : Host.Outcome State Fault Refusal :=
  finish (fun _ => .code .ok)
    (andThen (requireActive s) fun _ s => writeCmdBody c (paramBuf params) s)

/-- The chunks of WRITE_DATA from offset `off` on (R200). Every chunk takes at least one byte, so the first
argument, a bound on the chunks, is not used up under parameters that are in order; under CHUNK_BYTES = 0
the loop would not end, and is refused (R201; log entry 9). -/
def chunkLoop (op : SeqOp) (at' : Pos → Pos) (data : Buf) : Nat → Nat → State → Call Unit
  | 0, off, s => if off < data.len then .stop (setRefused .param s) else .ret () s
  | n + 1, off, s =>
    if off < data.len then
      andThen (memRead data off (chunkLen s.params data.len off) (setPos op (at' (.chunk off)) s)) fun tx s =>
        andThen (framedSend .writeDataChunk (some off) (dataFrame tx) s) fun _ s =>
          chunkLoop op at' data n (off + chunkLen s.params data.len off) s
    else .ret () s

/-- The body of WRITE_DATA after its lifecycle check and `S.err <- none` (R200). `at'` gives the position:
itself, or DELEGATE for the rotator's square path (43_rotator.md R231). -/
def writeDataBody (op : SeqOp) (at' : Pos → Pos) (data : Buf) (s : State) : Call Unit :=
  andThen (framedSend .writeDataHandshake none (hsFrame s.params) (setPos op (at' .hs) s)) fun _ s =>
    andThen (chunkLoop op at' data data.len 0 s) fun _ s => .ret () (setReqIdle s)

/-- WRITE_DATA (R200). -/
def execWriteData (data : Buf) (s : State) : Host.Outcome State Fault Refusal :=
  finish (fun _ => .code .ok)
    (andThen (requireActive s) fun _ s =>
      writeDataBody .writeData id data (setHeld [data] (clearErr s)))

end Sys2Proof.Machine
end

