-- ==== Sys2Proof/Machine/Rotator.lean ====
section
/-! DEFINITION. The pixel rotator's frame stream (43_rotator.md): WRITE_DATA_ROTATE. -/

namespace Sys2Proof.Machine

/-- Element `e'` of `dst` takes element `e` of `src`; an element is PIXEL_BYTES bytes moved together
(20_memory.md R64, R67; log entry 17). A point of time passes before it (log entry 8). -/
def copyElem (src : Buf) (e : Nat) (dst : Buf) (e' : Nat) (s : State) : Call Unit :=
  andThen (passPoint s) fun _ s =>
    andThen (memRead src (s.params.pixelBytes * e) s.params.pixelBytes s) fun v s =>
      memWrite dst (s.params.pixelBytes * e') v s

/-- Output row `i` of the square transpose (R231). -/
def transposeRow (src dst : Buf) (i : Nat) (s : State) : Call Unit :=
  forLoop (fun j s => copyElem src (j * s.params.rotW + i) dst (i * s.params.rotH + j) s) s.params.rotH 0 s

/-- The square transpose (R231, R232). -/
def transpose (src dst : Buf) (s : State) : Call Unit :=
  forLoop (fun i s => transposeRow src dst i s) s.params.rotW 0 s

/-- SQUARE (R231). -/
def rotateSquare (src dst : Buf) (s : State) : Call Unit :=
  if src.len ≠ rotSquareBytes s.params then .stop (raise .geometry .writeDataRotate none none s)
  else
    andThen (transpose src dst (setPos .writeDataRotate .transpose (setHeld [src, dst] s))) fun _ s =>
      writeDataBody .writeDataRotate .delegate dst s

/-- The gather of row-group `r` (R240). -/
def gatherGroup (src dst : Buf) (rows r : Nat) (s : State) : Call Unit :=
  forLoop (fun k s => copyElem src (r + k * rows) dst k s) (rotCols s.params dst) 0 s

/-- Row-group `r` of the fallback: its gather, then its transmit (R240, R246). -/
def rotateGroup (src dst : Buf) (rows r : Nat) (s : State) : Call Unit :=
  andThen (gatherGroup src dst rows r (setPos .writeDataRotate (.group r) s)) fun _ s =>
    andThen (memRead dst 0 dst.len s) fun tx s => framedSend .rotateChunk (some r) (dataFrame tx) s

/-- FALLBACK after its checks (R240). -/
def rotateStream (src dst : Buf) (s : State) : Call Unit :=
  andThen
    (framedSend .rotateHandshake none (hsFrame s.params)
      (setPos .writeDataRotate .hs (setHeld [src, dst] s))) fun _ s =>
    andThen (forLoop (rotateGroup src dst (rotRows src dst)) (rotRows src dst) 0 s) fun _ s =>
      .ret () (setReqIdle s)

/-- FALLBACK (R240, R241). -/
def rotateFallback (src dst : Buf) (s : State) : Call Unit :=
  if dst.len = 0 then .stop (raise .geometry .writeDataRotate none none s)
  else
    andThen (readField s.buscfg s) fun bc s =>
      if dst.len > bc.maxTransferSize then .stop (raise .tooLong .writeDataRotate none none s)
      else rotateStream src dst s

/-- WRITE_DATA_ROTATE after its lifecycle check (R230). -/
def rotateBody (src dst : Buf) (s : State) : Call Unit :=
  if sharesByte src dst then .stop (setFault .aliased s)
  else if dst.len = src.len then rotateSquare src dst (clearErr s)
  else rotateFallback src dst (clearErr s)

/-- WRITE_DATA_ROTATE (R230). -/
def execWriteDataRotate (data scratch : Buf) (s : State) : Host.Outcome State Fault Refusal :=
  finish (fun _ => .code .ok) (andThen (requireActive s) fun _ s => rotateBody data scratch s)

end Sys2Proof.Machine
end

