-- ==== Sys2Proof/Machine/Dispatch.lean ====
section
/-! DEFINITION. One arm per instruction, each a direct call of its meaning. -/

namespace Sys2Proof.Machine

def exec (i : Instr) (s : State) : Host.Outcome State Fault Refusal :=
  match i with
  | .init busId sck pins baudrate polarity phase => Sys2Proof.Machine.execInit busId sck pins baudrate polarity phase s
  | .deinit => Sys2Proof.Machine.execDeinit s
  | .writeCmd c params => Sys2Proof.Machine.execWriteCmd c params s
  | .writeData data => Sys2Proof.Machine.execWriteData data s
  | .writeDataRotate data scratch => Sys2Proof.Machine.execWriteDataRotate data scratch s
  | .readAttr sel => Sys2Proof.Machine.execReadAttr sel s
  | .busInitialize controllerId bc => Sys2Proof.Machine.execBusInitialize controllerId bc s
  | .deviceAttach controllerId dc => Sys2Proof.Machine.execDeviceAttach controllerId dc s
  | .deviceDetach handle => Sys2Proof.Machine.execDeviceDetach handle s
  | .busFree controllerId => Sys2Proof.Machine.execBusFree controllerId s
  | .pollingTransmit handle t => Sys2Proof.Machine.execPollingTransmit handle t s
  | .cmdFrame c tx => Sys2Proof.Machine.execCmdFrame c tx s
  | .hsFrame => Sys2Proof.Machine.execHsFrame s
  | .dataFrame tx => Sys2Proof.Machine.execDataFrame tx s

end Sys2Proof.Machine
end

