-- ==== Sys2Proof/Machine/Fetch.lean ====
section
/-! DEFINITION. What a step finds before it: the marks that end a run, the parameters' check, the events of the
outside, and the next request (00_scope.md R13, 60_exceptions.md R264, R265, R269, R276). -/

namespace Sys2Proof.Machine

/-- Whether a request or a frame is in progress: at the start of a step, one that hangs (R159). -/
def inProgress (s : State) : Bool := !(s.seq.req == .idle) || !s.queue.isEmpty

/-- A packet arrives while no request is in progress. -/
def fetchPacket (p : Packet) (s : State) : Fetched :=
  match decode p with
  | .ok i => .run i s
  | .reservedOp => .refuse .reservedOp
  | .internalOp => .refuse .internalOp

/-- No request is in progress: the host's next action; without one the block is idle (R278). -/
def fetchIdle (s : State) : Fetched :=
  match s.inbox with
  | [] => .pass s
  | .hostWrite a bs :: es => .pass (hostWrite a bs { s with inbox := es })
  | .packet p :: es => fetchPacket p { s with inbox := es }

/-- A request is in progress and never returns (R159, R301): one point of time passes, in which another thread's
action may come (R61, R276; log entry 8). -/
def fetchBusy (s : State) : Fetched :=
  match passPoints s.others 1 s with
  | .through s' => .pass s'
  | .cut _ s' => .pass s'

/-- What the step finds. -/
def fetch (s : State) : Fetched :=
  match s.fault with
  | some f => .faulted f
  | none =>
    match s.refused with
    | some r => .refused r
    | none =>
      if paramsOk s.params then
        if inProgress s then fetchBusy s else fetchIdle s
      else .refuse .param

/-- The packet of a table word put before the host's pending actions; a word of no row changes nothing. -/
def deliverWord (nbits w : Nat) (s : State) : State :=
  match tableWordPacket nbits w with
  | some p => { s with inbox := .packet p :: s.inbox }
  | none => s

end Sys2Proof.Machine
end

