-- ==== Sys2Proof/Machine/Step.lean ====
section
/-! DEFINITION. One step: the machine takes in what the outside does next, and runs a request to its end
(20_memory.md R70). -/

namespace Sys2Proof.Machine

/-- One step. A run whose fault or refusal mark is set takes no further step (10_state.md R47, R48). -/
def step (s : State) : Host.Outcome State Fault Refusal :=
  match fetch s with
  | .faulted f => .fault f
  | .refused r => .refused r
  | .refuse r => .next (setRefused r s)
  | .pass s' => .next s'
  | .run i s' => exec i s'

/-- The word is delivered as the host's next action (log entry 2). -/
def State.withFetchWord (s : State) (nbits w : Nat) : State := deliverWord nbits w s

end Sys2Proof.Machine
end

