-- ==== Sys2Proof/Safety.lean ====
section
/-! DEFINITION. What a safe run is, the state after a frame, and the invariants claims are stated with: of every step (`MachineInv`),
and of a machine driven by its host alone (`LifecycleInv`, `WireInv`). -/

namespace Sys2Proof.Machine

/-- Neither a fault nor a refusal has ended the run (10_state.md R47, R48). -/
def safe (s : State) : Bool := s.fault.isNone && s.refused.isNone

/-- The state after a frame that was answered status `st`, `n` of its beats driven, the answers left being
`o` (R150, R43, R45). -/
def afterFrame (dc : DevCfg) (t : Desc) (st n : Nat) (o : Oracle) (s : State) : State :=
  { s with
    log := s.log ++ [⟨t, st, n⟩]
    wire := s.wire ++ (serialize s.params.multiline dc t).take n
    queue := []
    desc := none
    seq := ⟨s.seq.req, none, 0⟩
    lines := ⟨idleSck dc.mode, ⟨.z, .z, .z, .z⟩⟩
    oracle := o }

/-- The state in which a frame hangs after `n` of its beats, at the phase and bit `ph`, `b`, with the lines
as they are (R159). -/
def hungFrame (dc : DevCfg) (t : Desc) (n : Nat) (ph : Option Phase) (b : Nat) (l : Lines) (o : Oracle)
    (s : State) : State :=
  { s with
    wire := s.wire ++ (serialize s.params.multiline dc t).take n
    queue := [t]
    desc := some t
    seq := ⟨s.seq.req, ph, b⟩
    lines := l
    oracle := o
    ret := .nothing }

/-- No request and no frame is in progress (R40, R41, R43). -/
def AtRest (s : State) : Prop :=
  s.seq = .idle ∧ s.desc = none ∧ s.held = [] ∧ s.lines.d = ⟨.z, .z, .z, .z⟩

/-- What holds at every request boundary, whatever drives the machine. -/
structure MachineInv (s : State) : Prop where
  /-- Memory is in its canonical form. -/
  mem : s.mem.wf = true
  /-- A device has a handle and a configuration, and the configuration has no value without it (R21, R26). -/
  handle : s.dev = .attached ↔ s.devHandle.isSome = true
  devcfg : s.dev = .attached ↔ s.devcfg.isSome = true
  /-- The bus configuration has no value while the bus is FREE (R28). -/
  buscfg : s.bus = .ready ↔ s.buscfg.isSome = true
  /-- A device is attached to a bus that is READY (R25). -/
  attach : s.dev = .attached → s.bus = .ready
  /-- The hardwired bits (R26, R28). -/
  hardDev : ∀ dc, s.devcfg = some dc → dc.noCs = true ∧ dc.halfDuplex = true
  hardBus : ∀ bc, s.buscfg = some bc → bc.master = true ∧ bc.quadGpio = true
  /-- SCK is at its idle level (R43). -/
  clock : ∀ dc, s.devcfg = some dc → s.lines.sck = idleSck dc.mode
  /-- With an empty queue everything is at rest (R40, R41, R43, R44). -/
  rest : safe s = true → s.queue = [] → AtRest s
  /-- The queue holds at most the descriptor in flight (R44). -/
  flight : s.queue = [] ∨ ∃ t, s.queue = [t] ∧ s.desc = some t
  /-- An error record never says OK (R46). -/
  err : ∀ e, s.err = some e → e.code ≠ .ok

/-- The host's pending actions are requests at the host interface and writes of its own memory: nothing
drives the controller directly. -/
def HostDriven (s : State) : Prop :=
  ∀ e ∈ s.inbox, (∃ req ops, e = .packet (.host req ops)) ∨ ∃ a bs, e = .hostWrite a bs

/-- The lifecycle of a machine driven by its host alone (R21, R22, R24 to R28). -/
structure LifecycleInv (s : State) : Prop where
  active : s.life = .active ↔ s.bus = .ready ∧ s.dev = .attached
  attach : s.dev = .attached → s.bus = .ready
  cfg : s.life = .uninit ↔ s.cfg = none
  config : ∀ c, s.life = .active → s.cfg = some c →
    0 < c.baudrate ∧
    s.devcfg = some (initDevCfg s.params c.baudrate c.cpol.toNat c.cpha.toNat) ∧
    s.buscfg = some ⟨initBusReq s.params c.sckPin c.dPin, s.params.dmaCh⟩

/-- The beats of a descriptor under the device configuration INIT writes (R124). -/
def hostBeats (p : Params) (t : Desc) : List Beat := serialize p.multiline (initDevCfg p 0 0 0) t

/-- The wire has carried the driven prefixes of the log's entries in order, and then some prefix of the
frame in flight, if one hangs (41_line_sequencer.md R169, R159). -/
def WireInv (s : State) : Prop :=
  ∃ j, s.wire =
    (s.log.flatMap fun e => (hostBeats s.params e.t).take e.k) ++
      match s.desc with
      | none => []
      | some t => (hostBeats s.params t).take j

end Sys2Proof.Machine
end

