-- ==== Sys2Proof/Certificates/Slice0/Obligations.lean ====
section
/-! DEFINITION. The statements for the provers, from the numbered rules of spec/ (the rule or section each one
formalises stands in its docstring and in OBLIGATIONS.json). -/

open Sys2Proof Sys2Proof.Machine

namespace Sys2Proof.Machine

/-! ### Words the statements share -/

/-- A device with handle `h` is attached under configuration `dc`, to a bus under configuration `bc`. -/
def Attached (s : State) (h : Nat) (dc : DevCfg) (bc : BusCfg) : Prop :=
  s.dev = .attached ∧ s.devHandle = some h ∧ s.devcfg = some dc ∧ s.buscfg = some bc

/-- The command and address lengths INIT attaches the device with (40_bus_manager.md R124). -/
def HeaderBits (dc : DevCfg) : Prop := dc.commandBits = 8 ∧ dc.addressBits = 24

/-- A host request other than READ_ATTR: one that returns a code (60_exceptions.md R263). -/
def Instr.ReturnsCode : Instr → Prop
  | .init _ _ _ _ _ _ => True
  | .deinit => True
  | .writeCmd _ _ => True
  | .writeData _ => True
  | .writeDataRotate _ _ => True
  | _ => False

/-- A nibble as a quad beat: its most significant bit on D3 (41_line_sequencer.md R162). -/
def nibbleBeat (tag : Phase) (n : BitVec 4) : Beat :=
  ⟨⟨Level.ofBool (n.getLsbD 0), Level.ofBool (n.getLsbD 1), Level.ofBool (n.getLsbD 2),
    Level.ofBool (n.getLsbD 3)⟩, tag⟩

/-- A bit as a single-line beat: on D0, the other lines not driven (R161). -/
def bitBeat (tag : Phase) (b : Bool) : Beat := ⟨⟨Level.ofBool b, .z, .z, .z⟩, tag⟩

/-- No other thread's action comes while the instruction runs: there is none, or no request keeps a position
(60_exceptions.md R276). -/
def Undisturbed (s : State) : Prop := s.others = [] ∨ s.seq.req = .idle

/-- The next `n` answers to POLLING_TRANSMIT, and the answers left after them. -/
def drawTxs : Nat → State → List TxAnswer × Oracle
  | 0, s => ([], s.oracle)
  | n + 1, s =>
    match drawTx s with
    | (a, s') =>
      match drawTxs n s' with
      | (as, o) => (a :: as, o)

/-- The log entry of a frame that is answered `a`. -/
def entryFor (p : Params) (dc : DevCfg) (t : Desc) : TxAnswer → LogEntry
  | .status st k =>
    ⟨t, st, if st = 0 then (serialize p.multiline dc t).length else min k (serialize p.multiline dc t).length⟩
  | .hang _ => ⟨t, 0, 0⟩

/-- The frames are answered by statuses after which the framer goes on (42_framer.md R194). -/
def GoesOn (p : Params) (as : List TxAnswer) : Prop :=
  ∀ a ∈ as, ∃ st k, a = .status st k ∧ (st = 0 ∨ p.txPolicy = .ignored)

/-- The state after a framer request that logs `entries` and returns OK: memory is `m`, the answers left
are `o`. -/
def framed (dc : DevCfg) (entries : List LogEntry) (m : Memory) (o : Oracle) (s : State) : State :=
  { s with
    mem := m
    log := s.log ++ entries
    wire := s.wire ++ entries.flatMap fun e => (serialize s.params.multiline dc e.t).take e.k
    queue := []
    desc := none
    seq := .idle
    held := []
    lines := ⟨idleSck dc.mode, ⟨.z, .z, .z, .z⟩⟩
    err := none
    oracle := o
    ret := .code .ok }

/-- `framed`, but the last entry's status ended the request with E_TX (R194). -/
def framedFails (dc : DevCfg) (entries : List LogEntry) (m : Memory) (o : Oracle) (op : OpName)
    (st : Nat) (off : Option Nat) (s : State) : State :=
  { framed dc entries m o s with
    err := some ⟨.tx, op, some st, off⟩
    ret := .code .tx }

/-- `framed`, but the request has not returned: it is at `op`, `pos` with its buffers held, and its frame `t` is
on the lines, `n` beats driven (41_line_sequencer.md R159). -/
def framedHangs (dc : DevCfg) (entries : List LogEntry) (m : Memory) (o : Oracle) (t : Desc) (n : Nat)
    (op : SeqOp) (pos : Pos) (bufs : List Buf) (ph : Option Phase) (b : Nat) (l : Lines) (s : State) : State :=
  { hungFrame dc t n ph b l o (framed dc entries m o s) with
    seq := ⟨.busy op pos, ph, b⟩
    held := bufs }

/-- The frame an instruction hands to the controller. -/
def Instr.frame? (p : Params) : Instr → Option Desc
  | .pollingTransmit _ t => some t
  | .cmdFrame c tx => some (Machine.cmdFrame p c tx)
  | .hsFrame => some (Machine.hsFrame p)
  | .dataFrame tx => some (Machine.dataFrame tx)
  | _ => none

/-- The buffer operands of a framer request (R61). -/
def Instr.buffers : Instr → List Buf
  | .writeCmd _ params => [params.getD ⟨0, 0⟩]
  | .writeData data => [data]
  | .writeDataRotate data scratch => [data, scratch]
  | _ => []

/-- WRITE_CMD, WRITE_DATA or WRITE_DATA_ROTATE. -/
def Instr.Framer : Instr → Prop
  | .writeCmd _ _ => True
  | .writeData _ => True
  | .writeDataRotate _ _ => True
  | _ => False

/-- What another thread may not do while a request with these buffers is in progress (R276, R61). -/
def Concurrent (bufs : List Buf) (e : Event) : Prop :=
  (∃ p, e = .packet p) ∨
    ∃ x bs b, e = .hostWrite x bs ∧ b ∈ bufs ∧ sharesByte ⟨x, bs.length⟩ b = true

/-- Another thread is to write the byte at `a`. -/
def OthersWrite (s : State) (a : Nat) : Prop :=
  ∃ e ∈ s.others, ∃ x bs, e.event = .hostWrite x bs ∧ x ≤ a ∧ a < x + bs.length

/-- The number of chunks of a payload of `len` bytes: `ceil(len / CHUNK_BYTES)` (R202). -/
def chunkCount (p : Params) (len : Nat) : Nat := (len + p.chunkBytes - 1) / p.chunkBytes

/-- The frames of a WRITE_DATA on buffer `b` with memory `m` (R202). -/
def dataStream (p : Params) (m : Memory) (b : Buf) : List Desc :=
  hsFrame p :: (List.range (chunkCount p b.len)).map fun i =>
    dataFrame (memBytes m (b.base + i * p.chunkBytes) (min p.chunkBytes (b.len - i * p.chunkBytes)))

/-- What the scratch buffer holds after the gather of row-group `r`: element `k` is source element
`r + k·rows`, and bytes past the last whole element are as at the start (43_rotator.md R240, R242). -/
def gathered (p : Params) (m : Memory) (src dst : Buf) (r : Nat) : List Byte :=
  (List.range dst.len).map fun x =>
    if x < p.pixelBytes * rotCols p dst then
      memByte m (src.base + p.pixelBytes * (r + x / p.pixelBytes * rotRows src dst) + x % p.pixelBytes)
    else memByte m (dst.base + x)

/-- The frames of the rotator's fallback (R245). -/
def gatherStream (p : Params) (m : Memory) (src dst : Buf) : List Desc :=
  hsFrame p :: (List.range (rotRows src dst)).map fun r => dataFrame (gathered p m src dst r)

/-- `m` is `m0` with the source transposed into the scratch, and no byte outside the scratch changed (43_rotator.md
R232). -/
def Transposed (p : Params) (m0 m : Memory) (src dst : Buf) : Prop :=
  (∀ i j b, i < p.rotW → j < p.rotH → b < p.pixelBytes →
    memByte m (dst.base + p.pixelBytes * (i * p.rotH + j) + b) =
      memByte m0 (src.base + p.pixelBytes * (j * p.rotW + i) + b)) ∧
  ∀ a, a < dst.base ∨ dst.base + dst.len ≤ a → memByte m a = memByte m0 a

/-- `m` is `m0` after the gathers of the first `groups` row-groups: the scratch holds the last of them, and no
byte outside it changed (43_rotator.md R247). -/
def GatheredTo (p : Params) (m0 m : Memory) (src dst : Buf) (groups : Nat) : Prop :=
  (groups = 0 → m = m0) ∧
  (groups ≠ 0 → memBytes m dst.base dst.len = gathered p m0 src dst (groups - 1)) ∧
  ∀ a, a < dst.base ∨ dst.base + dst.len ≤ a → memByte m a = memByte m0 a

/-- A request is ready to be taken: no mark is set, the parameters are in order, nothing is in progress. -/
def ReadyToTake (s : State) : Prop :=
  s.fault = none ∧ s.refused = none ∧ paramsOk s.params = true ∧ inProgress s = false

end Sys2Proof.Machine

/-! ### Reset -/

/-- 10_state.md R51: the values at reset, and that reading a field without a value faults F_UNWRITTEN. -/
def Obligations.ResetValues : Prop :=
  State.reset.life = .uninit ∧ State.reset.bus = .free ∧ State.reset.dev = .detached ∧
  State.reset.cfg = none ∧ State.reset.devHandle = none ∧ State.reset.devcfg = none ∧
  State.reset.buscfg = none ∧ State.reset.seq.req = .idle ∧ State.reset.seq.phase = none ∧
  State.reset.seq.bit = 0 ∧ State.reset.desc = none ∧ State.reset.lines.sck = .unspecified ∧
  State.reset.lines.d = ⟨.z, .z, .z, .z⟩ ∧ State.reset.queue = [] ∧ State.reset.log = [] ∧
  State.reset.err = none ∧ State.reset.fault = none ∧ State.reset.refused = none ∧
  ∀ s : State, readField (none : Option Cfg) s = .stop (setFault .unwritten s)

/-- The reset state meets every invariant stated below (10_state.md R25, R51). The values of the model's own
fields in it are the model's choice (log entry 20). -/
def Obligations.ResetMeetsInvariants : Prop :=
  MachineInv State.reset ∧ HostDriven State.reset ∧ LifecycleInv State.reset ∧ WireInv State.reset ∧
    paramsOk State.reset.params = true

/-! ### Encoding -/

/-- Decoding the encoding of an instruction gives it back, every operand at every value (30_encoding.md
R80, R81, R84). The packets are the model's own form of delivery (log entries 2, 4 and 5). -/
def Obligations.DecodeOfEncode : Prop := ∀ i : Instr, decode (encode i) = .ok i

/-- Words written out from R80 and R94. -/
def Obligations.TableWordsDecode : Prop :=
  decodeTableWord 8 0x01 = some (.init 0 0 [] 0 none none) ∧
  decodeTableWord 8 0x05 = some (.writeDataRotate ⟨0, 0⟩ ⟨0, 0⟩) ∧
  decodeTableWord 8 0x0B = some (.busFree 0) ∧
  decodeTableWord 48 0x021002001100 = some (.cmdFrame 0x11 []) ∧
  decodeTableWord 48 0x000232002C00 = some .hsFrame ∧
  decodeTableWord 48 0x00E200000000 = some (.dataFrame []) ∧
  decodeTableWord 8 0x07 = none ∧ decodeTableWord 8 0x13 = none

/-- R97: what is refused, the reason, and that the request has no effect. -/
def Obligations.ReservedEncodingsRefused : Prop :=
  (∀ (s : State) (req : BitVec 8) (ops : Operands) (es : List Event), ReadyToTake s →
    s.inbox = .packet (.host req ops) :: es →
    (req.toNat / 16 ≠ 0 → step s = .next (setRefused .reservedOp s)) ∧
    (req.toNat % 16 ∈ [0x0, 0x7, 0xD, 0xE, 0xF] → step s = .next (setRefused .reservedOp s)) ∧
    (req.toNat ∈ [0x8, 0x9, 0xA, 0xB, 0xC] → step s = .next (setRefused .internalOp s))) ∧
  (∀ (s : State) (sel : BitVec 4), s.life = .active → s.cfg.isSome = true → 9 ≤ sel.toNat →
    exec (.readAttr sel) s = .next (setRefused .reservedOp s)) ∧
  (∀ (s : State) (h : Nat) (dc : DevCfg) (bc : BusCfg) (t : Desc), Attached s h dc bc →
    (t.wf1 && t.wf2 && t.wf3 && t.wf5 s.params.multiline dc && t.wf6) = false →
    exec (.pollingTransmit h t) s = .next (setRefused .descriptor s)) ∧
  ∀ (c : BitVec 8) (ops : Operands), decode (.host 0x03 { ops with c := c }) = .ok (.writeCmd c ops.params)

/-- R95: the frame key of each framer frame, with WC_CMD, HS_CMD and HS_ADDR at their defaults, matches its own row
and no other, C is FK[15:8], and a frame of no kind is transmitted as it stands. With which handle, variable
lengths and bit length it is transmitted is log entry 5. -/
def Obligations.FrameKeyMatchesOneRow : Prop :=
  (∀ (p : Params) (c : BitVec 8) (tx : List Byte), p.wcCmd = 0x02 →
    (Machine.cmdFrame p c tx).key &&& 0xFFFFFFFF00FF = 0x021002000000 ∧
    (Machine.cmdFrame p c tx).key &&& 0xFFFFFFFFFFFF ≠ 0x000232002C00 ∧
    (Machine.cmdFrame p c tx).key &&& 0xFFFFFFFFFFFF ≠ 0x00E200000000 ∧
    (Machine.cmdFrame p c tx).key.extractLsb' 8 8 = c) ∧
  (∀ p : Params, p.hsCmd = 0x32 → p.hsAddr = 0x002C00 →
    (Machine.hsFrame p).key &&& 0xFFFFFFFF00FF ≠ 0x021002000000 ∧
    (Machine.hsFrame p).key &&& 0xFFFFFFFFFFFF = 0x000232002C00 ∧
    (Machine.hsFrame p).key &&& 0xFFFFFFFFFFFF ≠ 0x00E200000000) ∧
  (∀ tx : List Byte,
    (Machine.dataFrame tx).key &&& 0xFFFFFFFF00FF ≠ 0x021002000000 ∧
    (Machine.dataFrame tx).key &&& 0xFFFFFFFFFFFF ≠ 0x000232002C00 ∧
    (Machine.dataFrame tx).key &&& 0xFFFFFFFFFFFF = 0x00E200000000) ∧
  ∀ (h : Nat) (fk : BitVec 48) (tx : List Byte), fk &&& 0xFFFFFFFF00FF ≠ 0x021002000000 →
    fk &&& 0xFFFFFFFFFFFF ≠ 0x000232002C00 → fk &&& 0xFFFFFFFFFFFF ≠ 0x00E200000000 →
    decode (.frame h fk tx) = .ok (.pollingTransmit h (.ofKey fk tx))

/-- 10_state.md R27. -/
def Obligations.SpiModeBits : Prop :=
  (∀ cpol cpha : Nat, cpol ≤ 1 → cpha ≤ 1 →
    (spiMode cpol cpha).getLsbD 0 = decide (cpha = 1) ∧ (spiMode cpol cpha).getLsbD 1 = decide (cpol = 1) ∧
    (spiMode cpol cpha).toNat = cpha + 2 * cpol) ∧
  spiMode Config.params.defaultCpol Config.params.defaultCpha = 0

/-- 42_framer.md R199: the constructors' descriptors pass WF1, WF2, WF3, WF5 and WF6. -/
def Obligations.FramerDescriptorsPassChecks : Prop :=
  ∀ (m : Multiline) (dc : DevCfg) (p : Params) (c : BitVec 8) (tx : List Byte), HeaderBits dc →
    (Machine.cmdFrame p c tx).wf m dc = true ∧ (Machine.hsFrame p).wf m dc = true ∧
    (Machine.dataFrame tx).wf m dc = true

/-! ### Serialization -/

/-- 41_line_sequencer.md R152: the beats of each phase of a well-formed descriptor. -/
def Obligations.PhaseBeatCounts : Prop :=
  ∀ (m : Multiline) (dc : DevCfg) (t : Desc), t.wf m dc = true → ∀ ph : Phase,
    phaseLen dc t ph % phaseStep m dc t ph = 0 ∧
    ((serialize m dc t).filter fun b => b.tag = ph).length = phaseLen dc t ph / phaseStep m dc t ph

/-- R167: the beat counts of the three frame kinds. -/
def Obligations.FrameBeatCounts : Prop :=
  ∀ (m : Multiline) (dc : DevCfg) (p : Params) (c : BitVec 8) (tx : List Byte), HeaderBits dc →
    dc.dummyBits = 0 → dc.defaultWidth = .single →
    (serialize .absoluteQuad dc (Machine.cmdFrame p c tx)).length = 8 + 8 * tx.length ∧
    (serialize .followData dc (Machine.cmdFrame p c tx)).length = 32 + 8 * tx.length ∧
    (serialize m dc (Machine.hsFrame p)).length = 32 ∧
    (serialize m dc (Machine.dataFrame tx)).length = 2 * tx.length

/-- R157, R162: a DATA_FRAME carries each payload byte, in ascending index, as its high and then its low
nibble, the most significant bit of a nibble on D3, and nothing else. -/
def Obligations.DataFrameBeats : Prop :=
  ∀ (m : Multiline) (dc : DevCfg) (tx : List Byte),
    serialize m dc (Machine.dataFrame tx) =
      tx.flatMap fun b => [nibbleBeat .data (b.extractLsb' 4 4), nibbleBeat .data (b.extractLsb' 0 4)]

/-- 42_framer.md R193: two quad command beats, six quad address beats with C in addr[15:8], and the payload
on D0 alone, each byte most significant bit first. -/
def Obligations.CmdFrameBeats : Prop :=
  ∀ (dc : DevCfg) (p : Params) (c : BitVec 8) (tx : List Byte), HeaderBits dc → dc.dummyBits = 0 →
    dc.defaultWidth = .single → p.wcCmd = 0x02 →
    serialize .absoluteQuad dc (Machine.cmdFrame p c tx) =
      [nibbleBeat .cmd 0, nibbleBeat .cmd 2, nibbleBeat .addr 0, nibbleBeat .addr 0,
        nibbleBeat .addr (c.extractLsb' 4 4), nibbleBeat .addr (c.extractLsb' 0 4),
        nibbleBeat .addr 0, nibbleBeat .addr 0] ++
      tx.flatMap fun b => [7, 6, 5, 4, 3, 2, 1, 0].map fun k => bitBeat .data (b.getLsbD k)

/-- 42_framer.md R197: the handshake is 32 single-line beats on D0, the bits of 0x32 and of 0x002C00. -/
def Obligations.HandshakeBeats : Prop :=
  ∀ (m : Multiline) (dc : DevCfg) (p : Params), HeaderBits dc → dc.dummyBits = 0 →
    p.hsCmd = 0x32 → p.hsAddr = 0x002C00 →
    serialize m dc (Machine.hsFrame p) =
      ([0, 0, 1, 1, 0, 0, 1, 0].map fun n => bitBeat .cmd (n == 1)) ++
      ([0, 0, 0, 0, 0, 0, 0, 0, 0, 0, 1, 0, 1, 1, 0, 0, 0, 0, 0, 0, 0, 0, 0, 0].map fun n =>
        bitBeat .addr (n == 1))

/-- 10_state.md R41: after any number of beats of a frame the sequencer is in the phase of the next one, `bit`
counts the bits of that phase already driven, and after the last beat it is back at (IDLE, 0). -/
def Obligations.SequencerFollowsPhases : Prop :=
  ∀ (m : Multiline) (dc : DevCfg) (t : Desc) (s : State), t.wf m dc = true →
    (∀ n, n ≤ (serialize m dc t).length →
      (driveBeats m dc t ((serialize m dc t).take n) (startFrame dc t s)).seq.phase =
        (serialize m dc t)[n]?.map Beat.tag) ∧
    (∀ n b, (serialize m dc t)[n]? = some b →
      (driveBeats m dc t ((serialize m dc t).take n) (startFrame dc t s)).seq.bit =
        phaseStep m dc t b.tag * (((serialize m dc t).take n).filter fun x => x.tag = b.tag).length) ∧
    (driveBeats m dc t (serialize m dc t) (startFrame dc t s)).seq.bit = 0

/-! ### Transmits -/

/-- R173: a frame answered status 0 is driven whole; one answered another status is driven to some number
of its beats, and any such number is admitted. The frame is logged with both, and nothing else changes. That the
number is the answer's is log entry 6, that the status is the result log entry 12, and that no other thread's
action comes to a frame without a request is log entry 8. -/
def Obligations.TransmitStatusAndBeats : Prop :=
  ∀ (s s' : State) (h : Nat) (dc : DevCfg) (bc : BusCfg) (t : Desc) (st k : Nat), Attached s h dc bc →
    Undisturbed s → t.wf s.params.multiline dc = true → t.tx.length ≤ bc.maxTransferSize →
    drawTx s = (.status st k, s') →
    exec (.pollingTransmit h t) s = .next (setRet (.status st) (afterFrame dc t st
      (if st = 0 then (serialize s.params.multiline dc t).length
        else min k (serialize s.params.multiline dc t).length) s'.oracle s))

/-- 42_framer.md R192, R196, R198: each frame of the opcode table is the transmit of its descriptor. The model's
choices in it: the variable lengths of CMD_FRAME and HS_FRAME are 0 (log entry 19), a DATA_FRAME of no bytes is
transmitted (log entry 5), the result is the status (log entry 12), the command and address are the parameters'
(log entry 22), and the number of beats driven is the answer's (log entry 6). -/
def Obligations.FramesTransmitTheirDescriptor : Prop :=
  ∀ (s s' : State) (h : Nat) (dc : DevCfg) (bc : BusCfg) (c : BitVec 8) (tx : List Byte) (st k : Nat),
    Attached s h dc bc → HeaderBits dc → Undisturbed s → drawTx s = (.status st k, s') →
    let done (t : Desc) : State := setRet (.status st) (afterFrame dc t st
      (if st = 0 then (serialize s.params.multiline dc t).length
        else min k (serialize s.params.multiline dc t).length) s'.oracle s)
    (tx.length ≤ bc.maxTransferSize → exec (.cmdFrame c tx) s = .next (done
      ⟨0x0210, s.params.wcCmd.toNat, c.toNat * 256, 0, 0, 0, tx, 8 * tx.length⟩)) ∧
    exec .hsFrame s = .next (done ⟨0x0002, s.params.hsCmd.toNat, s.params.hsAddr.toNat, 0, 0, 0, [], 0⟩) ∧
    (tx.length ≤ bc.maxTransferSize → exec (.dataFrame tx) s = .next (done
      ⟨0x00E2, 0, 0, 0, 0, 0, tx, 8 * tx.length⟩))

/-- R159: a POLLING_TRANSMIT, CMD_FRAME, HS_FRAME or DATA_FRAME answered HANG drives some prefix of its beats, logs
nothing, keeps the frame in flight and never returns; nothing else changes. That the machine then steps to itself
is log entry 7. -/
def Obligations.HangNeverReturns : Prop :=
  ∀ (i : Instr) (s s' : State) (h : Nat) (dc : DevCfg) (bc : BusCfg) (t : Desc) (j : Nat), Attached s h dc bc →
    Undisturbed s → Instr.frame? s.params i = some t → (∀ h' d, i = .pollingTransmit h' d → h' = h) →
    t.wf s.params.multiline dc = true → t.tx.length ≤ bc.maxTransferSize → drawTx s = (.hang j, s') →
    ∃ ph b l u, exec i s = .next u ∧
      u = hungFrame dc t (min j (serialize s.params.multiline dc t).length) ph b l s'.oracle s ∧
      (s.fault = none → s.refused = none → paramsOk s.params = true → s.others = [] → step u = .next u)

/-- R150, R151: where POLLING_TRANSMIT does not reach the lines. The order of its checks is log entry 15, and that
another thread's action can come in a transmit that is too long log entry 8. -/
def Obligations.TransmitNotSent : Prop :=
  (∀ (s : State) (h : Nat) (t : Desc), s.dev ≠ .attached →
    exec (.pollingTransmit h t) s = .next (setFault .lifecycle s)) ∧
  (∀ (s : State) (h h' : Nat) (t : Desc), s.dev = .attached → s.devHandle = some h' → h ≠ h' →
    exec (.pollingTransmit h t) s = .next (setFault .lifecycle s)) ∧
  (∀ (s : State) (h : Nat) (dc : DevCfg) (bc : BusCfg) (t : Desc), Attached s h dc bc →
    Undisturbed s → t.wf s.params.multiline dc = true → bc.maxTransferSize < t.tx.length → paramsOk s.params = true →
    exec (.pollingTransmit h t) s = .next (setRet (.status s.params.stTooLong) s) ∧
    s.params.stTooLong ≠ 0 ∧ statusMem s.params.stTooLong s.params.statuses = true)

/-- 40_bus_manager.md R126: no frame while the device is detached. -/
def Obligations.NoFrameWhileDetached : Prop :=
  ∀ (i : Instr) (s t : State), s.dev = .detached → exec i s = .next t → t.log = s.log ∧ t.wire = s.wire

/-- 10_state.md R45, 60_exceptions.md R268: a step only adds to the log and to the wire. -/
def Obligations.LogAndWireOnlyGrow : Prop :=
  ∀ s t : State, step s = .next t → s.log <+: t.log ∧ s.wire <+: t.wire

/-! ### The bus manager -/

/-- R121. -/
def Obligations.BusInitializeWritesBus : Prop :=
  ∀ (s s' : State) (id : Nat) (bc : BusReq) (st : Nat), drawBusInit s = (st, s') →
    (s.bus = .free → st = 0 → exec (.busInitialize id bc) s = .next
      { s with
        bus := .ready
        buscfg := some ⟨{ bc with master := true, quadGpio := true }, s.params.dmaCh⟩
        oracle := s'.oracle
        ret := .status 0 }) ∧
    (s.bus = .free → st ≠ 0 → exec (.busInitialize id bc) s = .next
      { s with oracle := s'.oracle, ret := .status st }) ∧
    (s.bus ≠ .free → exec (.busInitialize id bc) s = .next (setFault .lifecycle s))

/-- R123. That the caller at the controller interface stores the handle is log entry 14. -/
def Obligations.DeviceAttachWritesDevice : Prop :=
  ∀ (s s' : State) (id : Nat) (dc : DevCfg) (st h : Nat), drawAttach s = (st, h, s') →
    (s.bus = .ready → s.dev = .detached → st = 0 → exec (.deviceAttach id dc) s = .next
      { s with
        dev := .attached
        devcfg := some { dc with noCs := true, halfDuplex := true }
        lines := { s.lines with sck := if dc.mode.getLsbD 1 then .high else .low }
        devHandle := some h
        oracle := s'.oracle
        ret := .attach 0 (some h) }) ∧
    (s.bus = .ready → s.dev = .detached → st ≠ 0 → exec (.deviceAttach id dc) s = .next
      { s with oracle := s'.oracle, ret := .attach st none }) ∧
    (s.bus ≠ .ready ∨ s.dev ≠ .detached → exec (.deviceAttach id dc) s = .next (setFault .lifecycle s))

/-- R125. -/
def Obligations.DeviceDetachClearsDevice : Prop :=
  ∀ (s s' : State) (h st : Nat), drawDetach s = (st, s') →
    (s.dev = .attached → s.devHandle = some h → exec (.deviceDetach h) s = .next
      { s with
        dev := .detached
        devcfg := none
        devHandle := none
        oracle := s'.oracle
        ret := .done }) ∧
    (s.dev ≠ .attached → exec (.deviceDetach h) s = .next (setFault .lifecycle s)) ∧
    (∀ h', s.dev = .attached → s.devHandle = some h' → h ≠ h' →
      exec (.deviceDetach h) s = .next (setFault .lifecycle s))

/-- R127. -/
def Obligations.BusFreeClearsBus : Prop :=
  ∀ (s s' : State) (id st : Nat), drawBusFree s = (st, s') →
    (s.bus = .ready → s.dev = .detached → exec (.busFree id) s = .next
      { s with
        bus := .free
        buscfg := none
        lines := ⟨.unspecified, ⟨.z, .z, .z, .z⟩⟩
        oracle := s'.oracle
        ret := .done }) ∧
    (s.bus ≠ .ready ∨ s.dev ≠ .detached → exec (.busFree id) s = .next (setFault .lifecycle s))

/-- R120, R122, R124: a successful INIT. -/
def Obligations.InitCreatesHandle : Prop :=
  ∀ (s s1 s2 : State) (busId sck p0 p1 p2 p3 baud h g g0 g1 g2 g3 : Nat) (pol ph : Option Nat),
    s.life ≠ .active → s.bus = .free → s.dev = .detached → s.params.numDataLines = 4 →
    resolvePin s.params sck = some g → resolvePin s.params p0 = some g0 →
    resolvePin s.params p1 = some g1 → resolvePin s.params p2 = some g2 →
    resolvePin s.params p3 = some g3 → 0 < baud →
    pol.getD s.params.defaultCpol ≤ 1 → ph.getD s.params.defaultCpha ≤ 1 →
    drawBusInit s = (0, s1) → drawAttach s1 = (0, h, s2) →
    exec (.init busId sck [p0, p1, p2, p3] baud pol ph) s = .next
      { s with
        life := .active
        bus := .ready
        dev := .attached
        cfg := some ⟨busId, g, ⟨g0, g1, g2, g3⟩, baud, BitVec.ofNat 1 (pol.getD s.params.defaultCpol),
          BitVec.ofNat 1 (ph.getD s.params.defaultCpha)⟩
        devHandle := some h
        devcfg := some
          ⟨s.params.cmdBits, s.params.addrBits, s.params.dummyBits,
            BitVec.ofNat 1 (pol.getD s.params.defaultCpol) ++ BitVec.ofNat 1 (ph.getD s.params.defaultCpha),
            baud, true, true, s.params.queueDepth, .single⟩
        buscfg := some ⟨⟨⟨g0, g1, g2, g3⟩, g, s.params.maxXferBytes, true, true⟩, s.params.dmaCh⟩
        lines := { s.lines with sck := if pol.getD s.params.defaultCpol = 1 then .high else .low }
        err := none
        oracle := s2.oracle
        ret := .code .ok }

/-- R128: the configuration checks of INIT, in their order, before any primitive. That the number of pins is the
parameter NUM_DATA_LINES, and that its one value is 4, is log entry 17. -/
def Obligations.InitConfigurationErrors : Prop :=
  ∀ (s : State) (busId sck baud : Nat) (pins : List Nat) (pol ph : Option Nat), s.life ≠ .active →
    s.params.numDataLines = 4 → s.seq = .idle → s.held = [] →
    let raised (c : Code) : State := { s with err := some ⟨c, .initRequest, none, none⟩, ret := .code c }
    (pins.length ≠ s.params.numDataLines → exec (.init busId sck pins baud pol ph) s = .next (raised .configArgcount)) ∧
    (pins.length = 4 → (∃ p ∈ sck :: pins, resolvePin s.params p = none) →
      exec (.init busId sck pins baud pol ph) s = .next (raised .configType)) ∧
    (pins.length = 4 → (∀ p ∈ sck :: pins, (resolvePin s.params p).isSome = true) →
      (baud = 0 ∨ 1 < pol.getD s.params.defaultCpol ∨ 1 < ph.getD s.params.defaultCpha) →
      exec (.init busId sck pins baud pol ph) s = .next (raised .configValue))

/-- R129: a failed INIT leaves no handle, and the bus as FREE_BUS_ON_ATTACH_FAIL says; on a bus left READY a
later INIT faults. -/
def Obligations.InitBusErrors : Prop :=
  ∀ (s s1 s2 s3 : State) (busId sck baud st h f : Nat) (pins : List Nat) (pol ph : Option Nat),
    s.life ≠ .active → s.params.numDataLines = 4 → s.seq = .idle → s.held = [] → pins.length = 4 →
    (∀ p ∈ sck :: pins, (resolvePin s.params p).isSome = true) → 0 < baud →
    pol.getD s.params.defaultCpol ≤ 1 → ph.getD s.params.defaultCpha ≤ 1 →
    (s.bus = .free → drawBusInit s = (st, s1) → st ≠ 0 →
      exec (.init busId sck pins baud pol ph) s = .next
        { s with
          err := some ⟨.busIo, .busInitialize, some st, none⟩
          oracle := s1.oracle
          ret := .code .busIo }) ∧
    (s.bus = .free → s.dev = .detached → drawBusInit s = (0, s1) → drawAttach s1 = (st, h, s2) →
      st ≠ 0 → drawBusFree s2 = (f, s3) → s.params.freeBusOnAttachFail = true →
      exec (.init busId sck pins baud pol ph) s = .next
        { s with
          buscfg := none
          lines := ⟨.unspecified, ⟨.z, .z, .z, .z⟩⟩
          err := some ⟨.busIo, .deviceAttach, some st, none⟩
          oracle := s3.oracle
          ret := .code .busIo }) ∧
    (s.bus = .free → s.dev = .detached → drawBusInit s = (0, s1) → drawAttach s1 = (st, h, s2) →
      st ≠ 0 → s.params.freeBusOnAttachFail = false →
      ∃ g d, some g = resolvePin s.params sck ∧
        [some d.d0, some d.d1, some d.d2, some d.d3] = pins.map (resolvePin s.params) ∧
        exec (.init busId sck pins baud pol ph) s = .next
        { s with
          bus := .ready
          buscfg := some ⟨⟨d, g, s.params.maxXferBytes, true, true⟩, s.params.dmaCh⟩
          err := some ⟨.busIo, .deviceAttach, some st, none⟩
          oracle := s2.oracle
          ret := .code .busIo }) ∧
    (s.bus ≠ .free →
      exec (.init busId sck pins baud pol ph) s = .next (setFault .lifecycle (clearErr s)))

/-- R132 and 60_exceptions.md R264: a request in the wrong lifecycle state faults, and the run ends. -/
def Obligations.WrongLifecycleFaults : Prop :=
  ∀ s : State,
    (s.life ≠ .active →
      exec .deinit s = .next (setFault .lifecycle s) ∧
      (∀ c ps, exec (.writeCmd c ps) s = .next (setFault .lifecycle s)) ∧
      (∀ b, exec (.writeData b) s = .next (setFault .lifecycle s)) ∧
      (∀ b d, exec (.writeDataRotate b d) s = .next (setFault .lifecycle s)) ∧
      ∀ sel, exec (.readAttr sel) s = .next (setFault .lifecycle s)) ∧
    (s.life = .active → ∀ busId sck pins baud pol ph,
      exec (.init busId sck pins baud pol ph) s = .next (setFault .lifecycle s)) ∧
    step (setFault .lifecycle s) = .fault .lifecycle

/-- R130, R131: DEINIT, and its fault outside ACTIVE. -/
def Obligations.DeinitReleasesHandle : Prop :=
  (∀ s : State, s.life ≠ .active → exec .deinit s = .next (setFault .lifecycle s)) ∧
  ∀ (s s1 s2 : State) (h a b : Nat), s.life = .active → s.bus = .ready → s.dev = .attached →
    s.devHandle = some h → s.cfg.isSome = true → drawDetach s = (a, s1) → drawBusFree s1 = (b, s2) →
    exec .deinit s = .next
      { s with
        life := .released
        bus := .free
        dev := .detached
        devHandle := none
        devcfg := none
        buscfg := none
        lines := ⟨.unspecified, ⟨.z, .z, .z, .z⟩⟩
        err := none
        oracle := s2.oracle
        ret := .code .ok }

/-- R134: READ_ATTR, each selector, and its fault outside ACTIVE. -/
def Obligations.ReadAttrReturnsAttribute : Prop :=
  (∀ (s : State) (sel : BitVec 4), s.life ≠ .active →
    exec (.readAttr sel) s = .next (setFault .lifecycle s)) ∧
  ∀ (s : State) (c : Cfg), s.life = .active → s.cfg = some c →
    exec (.readAttr 0) s = .next { s with ret := .value c.baudrate } ∧
    exec (.readAttr 1) s = .next { s with ret := .value c.cpol.toNat } ∧
    exec (.readAttr 2) s = .next { s with ret := .value c.cpha.toNat } ∧
    exec (.readAttr 3) s = .next { s with ret := .value c.busId } ∧
    exec (.readAttr 4) s = .next { s with ret := .value c.sckPin } ∧
    exec (.readAttr 5) s = .next { s with ret := .value c.dPin.d0 } ∧
    exec (.readAttr 6) s = .next { s with ret := .value c.dPin.d1 } ∧
    exec (.readAttr 7) s = .next { s with ret := .value c.dPin.d2 } ∧
    exec (.readAttr 8) s = .next { s with ret := .value c.dPin.d3 } ∧
    ∀ sel : BitVec 4, 9 ≤ sel.toNat → exec (.readAttr sel) s = .next (setRefused .reservedOp s)

/-! ### The framer -/

/-- 42_framer.md R190, R194: WRITE_CMD logs one CMD_FRAME with its parameter bytes, and returns OK, or
E_TX where the status is not 0 under CHECKED. That the frame's variable lengths are 0 is log entry 19, and that the
number of beats driven is the answer's log entry 6. -/
def Obligations.WriteCmdSendsOneFrame : Prop :=
  ∀ (s s' : State) (h : Nat) (dc : DevCfg) (bc : BusCfg) (c : BitVec 8) (params : Option Buf) (b : Buf)
    (st k : Nat), s.life = .active → Attached s h dc bc → HeaderBits dc → s.others = [] →
    b = params.getD ⟨0, 0⟩ → b.len ≤ bc.maxTransferSize → drawTx s = (.status st k, s') →
    let e := entryFor s.params dc
      ⟨0x0210, s.params.wcCmd.toNat, c.toNat * 256, 0, 0, 0, memBytes s.mem b.base b.len, 8 * b.len⟩
      (.status st k)
    (st = 0 ∨ s.params.txPolicy = .ignored →
      exec (.writeCmd c params) s = .next (framed dc [e] s.mem s'.oracle s)) ∧
    (st ≠ 0 → s.params.txPolicy = .checked →
      exec (.writeCmd c params) s = .next
        (framedFails dc [e] s.mem s'.oracle .writeCommand st (some 0) s))

/-- R191. -/
def Obligations.WriteCmdTooLong : Prop :=
  ∀ (s : State) (bc : BusCfg) (c : BitVec 8) (b : Buf), s.life = .active → s.buscfg = some bc →
    s.seq = .idle → s.held = [] → bc.maxTransferSize < b.len →
    exec (.writeCmd c (some b)) s = .next
      { s with err := some ⟨.tooLong, .writeCommand, none, none⟩, ret := .code .tooLong }

/-- R202 and R194's IGNORED: where every frame's status lets the framer go on, WRITE_DATA logs the
handshake and then `ceil(L / CHUNK_BYTES)` frames with the buffer's slices in order, each of at most
CHUNK_BYTES bytes, together the whole buffer, and returns OK. -/
def Obligations.WriteDataChunkLaw : Prop :=
  ∀ (s : State) (h : Nat) (dc : DevCfg) (bc : BusCfg) (b : Buf) (answers : List TxAnswer) (o : Oracle),
    s.life = .active → Attached s h dc bc → HeaderBits dc → s.others = [] → paramsOk s.params = true →
    s.params.chunkBytes ≤ bc.maxTransferSize →
    drawTxs (1 + chunkCount s.params b.len) s = (answers, o) → GoesOn s.params answers →
    exec (.writeData b) s = .next (framed dc
      (List.zipWith (entryFor s.params dc) (dataStream s.params s.mem b) answers) s.mem o s) ∧
    ((dataStream s.params s.mem b).flatMap Desc.tx) = memBytes s.mem b.base b.len ∧
    ∀ t ∈ (dataStream s.params s.mem b).tail, 1 ≤ t.tx.length ∧ t.tx.length ≤ s.params.chunkBytes

/-- R194, R195, R200: under CHECKED the first frame whose status is not 0 is the last one sent, and E_TX
names it: no offset for the handshake, the chunk's byte offset for a chunk. -/
def Obligations.WriteDataStopsAtFailure : Prop :=
  ∀ (s : State) (h : Nat) (dc : DevCfg) (bc : BusCfg) (b : Buf) (answers : List TxAnswer) (st k : Nat)
    (o : Oracle), s.life = .active → Attached s h dc bc → HeaderBits dc → s.others = [] →
    paramsOk s.params = true → s.params.chunkBytes ≤ bc.maxTransferSize → s.params.txPolicy = .checked →
    drawTxs (answers.length + 1) s = (answers ++ [.status st k], o) →
    answers.length ≤ chunkCount s.params b.len → GoesOn s.params answers → st ≠ 0 →
    exec (.writeData b) s = .next (framedFails dc
      (List.zipWith (entryFor s.params dc) (dataStream s.params s.mem b) (answers ++ [.status st k]))
      s.mem o
      (if answers = [] then .writeDataHandshake else .writeDataChunk) st
      (if answers = [] then none else some ((answers.length - 1) * s.params.chunkBytes)) s)

/-- R203: no data sends the handshake alone and returns OK. -/
def Obligations.WriteDataOfNoBytes : Prop :=
  ∀ (s s' : State) (h : Nat) (dc : DevCfg) (bc : BusCfg) (base k : Nat),
    s.life = .active → Attached s h dc bc → HeaderBits dc → s.others = [] →
    drawTx s = (.status 0 k, s') →
    exec (.writeData ⟨base, 0⟩) s = .next (framed dc
      [⟨Machine.hsFrame s.params, 0, (serialize s.params.multiline dc (Machine.hsFrame s.params)).length⟩]
      s.mem s'.oracle s)

/-! ### The rotator -/

/-- 43_rotator.md R232, R234, R235: the square path transposes the source into the scratch, element by
element, changes no other byte, and then sends the scratch as WRITE_DATA does. That an element is PIXEL_BYTES
bytes, where R231 writes 2, is log entry 17. -/
def Obligations.SquareTransposeLaw : Prop :=
  ∀ (s : State) (h : Nat) (dc : DevCfg) (bc : BusCfg) (src dst : Buf) (answers : List TxAnswer) (o : Oracle),
    s.life = .active → Attached s h dc bc → HeaderBits dc → s.others = [] → paramsOk s.params = true →
    s.params.chunkBytes ≤ bc.maxTransferSize → s.mem.wf = true → sharesByte src dst = false →
    dst.len = src.len → src.len = rotSquareBytes s.params →
    drawTxs (1 + chunkCount s.params dst.len) s = (answers, o) → GoesOn s.params answers →
    ∃ m : Memory, Transposed s.params s.mem m src dst ∧
      exec (.writeDataRotate src dst) s = .next (framed dc
        (List.zipWith (entryFor s.params dc) (dataStream s.params m dst) answers) m o s)

/-- R245, R246, R247: the fallback sends the handshake and then exactly `rows` frames of the scratch's byte
length, frame r carrying the gather of group r; the scratch ends with the last gather, and no other byte of
memory changes. That an element is PIXEL_BYTES bytes, where R240 and R245 write 2, is log entry 17. -/
def Obligations.FallbackGatherLaw : Prop :=
  ∀ (s : State) (h : Nat) (dc : DevCfg) (bc : BusCfg) (src dst : Buf) (answers : List TxAnswer) (o : Oracle),
    s.life = .active → Attached s h dc bc → HeaderBits dc → s.others = [] → s.mem.wf = true →
    sharesByte src dst = false → dst.len ≠ src.len → dst.len ≠ 0 → dst.len ≤ bc.maxTransferSize →
    drawTxs (1 + rotRows src dst) s = (answers, o) → GoesOn s.params answers →
    ∃ m : Memory, GatheredTo s.params s.mem m src dst (rotRows src dst) ∧
      exec (.writeDataRotate src dst) s = .next (framed dc
        (List.zipWith (entryFor s.params dc) (gatherStream s.params s.mem src dst) answers) m o s)

/-- R240, R247: under CHECKED the fallback stops at the first frame whose status is not 0; E_TX names the
group, and the scratch holds its gather. That an element is PIXEL_BYTES bytes, where R240 writes 2, is log
entry 17. -/
def Obligations.FallbackStopsAtFailure : Prop :=
  ∀ (s : State) (h : Nat) (dc : DevCfg) (bc : BusCfg) (src dst : Buf) (answers : List TxAnswer)
    (st k : Nat) (o : Oracle), s.life = .active → Attached s h dc bc → HeaderBits dc → s.others = [] →
    s.mem.wf = true → sharesByte src dst = false → dst.len ≠ src.len → dst.len ≠ 0 →
    dst.len ≤ bc.maxTransferSize → s.params.txPolicy = .checked →
    drawTxs (answers.length + 1) s = (answers ++ [.status st k], o) →
    answers.length ≤ rotRows src dst → GoesOn s.params answers → st ≠ 0 →
    ∃ m : Memory, GatheredTo s.params s.mem m src dst answers.length ∧
      exec (.writeDataRotate src dst) s = .next (framedFails dc
        (List.zipWith (entryFor s.params dc) (gatherStream s.params s.mem src dst)
          (answers ++ [.status st k])) m o
        (if answers = [] then .rotateHandshake else .rotateChunk) st
        (if answers = [] then none else some (answers.length - 1)) s)

/-- R230, R231, R240, R241, 60_exceptions.md R269: the checks of WRITE_DATA_ROTATE, in their order, before
any write or frame. -/
def Obligations.RotateChecks : Prop :=
  ∀ (s : State) (bc : BusCfg) (src dst : Buf), s.life = .active → s.buscfg = some bc → s.seq = .idle →
    s.held = [] →
    let raised (c : Code) : State :=
      { s with err := some ⟨c, .writeDataRotate, none, none⟩, ret := .code c }
    (sharesByte src dst = true → exec (.writeDataRotate src dst) s = .next (setFault .aliased s)) ∧
    (sharesByte src dst = false → dst.len = src.len → src.len ≠ rotSquareBytes s.params →
      exec (.writeDataRotate src dst) s = .next (raised .geometry)) ∧
    (dst.len ≠ src.len → dst.len = 0 →
      exec (.writeDataRotate src dst) s = .next (raised .geometry)) ∧
    (sharesByte src dst = false → dst.len ≠ src.len → bc.maxTransferSize < dst.len →
      exec (.writeDataRotate src dst) s = .next (raised .tooLong))

/-- 43_rotator.md R243 and 60_exceptions.md R264: no instruction reads or writes outside its buffers. -/
def Obligations.NoAccessOutOfBounds : Prop :=
  ∀ (i : Instr) (s t : State), exec i s = .next t → t.fault = some .bounds → s.fault = some .bounds

/-- 20_memory.md R60: the block writes only `scratch`, and only in WRITE_DATA_ROTATE. A byte that another thread
writes meanwhile is not the block's (log entry 8). -/
def Obligations.OnlyRotateWritesMemory : Prop :=
  ∀ (i : Instr) (s t : State) (a : Nat), exec i s = .next t → memByte t.mem a ≠ memByte s.mem a →
    (∃ data scratch, i = .writeDataRotate data scratch ∧ scratch.base ≤ a ∧ a < scratch.base + scratch.len) ∨
    OthersWrite s a

/-! ### Frames and results over all instructions -/

/-- What the framer's requests leave unchanged (42_framer.md R190, R200, 43_rotator.md R230). Memory may change,
besides the scratch, where another thread writes (log entry 8). -/
def Obligations.FramerRequestsFrame : Prop :=
  ∀ (i : Instr) (s t : State), Instr.Framer i → exec i s = .next t →
    t = { s with
      seq := t.seq, desc := t.desc, lines := t.lines, queue := t.queue, log := t.log, err := t.err,
      fault := t.fault, refused := t.refused, ret := t.ret, held := t.held, wire := t.wire, mem := t.mem,
      oracle := { s.oracle with tx := t.oracle.tx, draws := t.oracle.draws }, others := t.others } ∧
    (s.others = [] → t.others = [] ∧ ((∀ src dst, i ≠ .writeDataRotate src dst) → t.mem = s.mem)) ∧
    ∀ a, ¬ OthersWrite s a →
      (∀ src dst, i = .writeDataRotate src dst → a < dst.base ∨ dst.base + dst.len ≤ a) →
      memByte t.mem a = memByte s.mem a

/-- What the transmits leave unchanged (41_line_sequencer.md R150: state written). Memory may change where
another thread writes (log entry 8). -/
def Obligations.TransmitsFrame : Prop :=
  ∀ (i : Instr) (s t : State), (Instr.frame? s.params i).isSome = true → exec i s = .next t →
    t = { s with
      seq := ⟨s.seq.req, t.seq.phase, t.seq.bit⟩, desc := t.desc, lines := t.lines, queue := t.queue,
      log := t.log, fault := t.fault, refused := t.refused, ret := t.ret, wire := t.wire, mem := t.mem,
      oracle := { s.oracle with tx := t.oracle.tx, draws := t.oracle.draws }, others := t.others } ∧
    (Undisturbed s → t.mem = s.mem ∧ t.others = s.others) ∧
    ∀ a, ¬ OthersWrite s a → memByte t.mem a = memByte s.mem a

/-- What the lifecycle requests, their primitives and READ_ATTR leave unchanged (40_bus_manager.md: state
written). -/
def Obligations.LifecycleFrame : Prop :=
  (∀ (s t : State) (id sck baud : Nat) (pins : List Nat) (pol ph : Option Nat),
    exec (.init id sck pins baud pol ph) s = .next t →
    t = { s with
      life := t.life, bus := t.bus, dev := t.dev, cfg := t.cfg, devHandle := t.devHandle,
      devcfg := t.devcfg, buscfg := t.buscfg, lines := t.lines, seq := t.seq, held := t.held,
      err := t.err, fault := t.fault, refused := t.refused, ret := t.ret,
      oracle := { t.oracle with tx := s.oracle.tx, detach := s.oracle.detach } }) ∧
  (∀ s t : State, exec .deinit s = .next t →
    t = { s with
      life := t.life, bus := t.bus, dev := t.dev, devHandle := t.devHandle, devcfg := t.devcfg,
      buscfg := t.buscfg, lines := t.lines, err := t.err, fault := t.fault, ret := t.ret,
      oracle := { t.oracle with
        tx := s.oracle.tx, busInit := s.oracle.busInit, attach := s.oracle.attach } }) ∧
  (∀ (s t : State) (id : Nat) (bc : BusReq), exec (.busInitialize id bc) s = .next t →
    t = { s with
      bus := t.bus, buscfg := t.buscfg, fault := t.fault, ret := t.ret,
      oracle := { s.oracle with busInit := t.oracle.busInit, draws := t.oracle.draws } }) ∧
  (∀ (s t : State) (id : Nat) (dc : DevCfg), exec (.deviceAttach id dc) s = .next t →
    t = { s with
      dev := t.dev, devcfg := t.devcfg, devHandle := t.devHandle, lines := ⟨t.lines.sck, s.lines.d⟩,
      fault := t.fault, ret := t.ret,
      oracle := { s.oracle with attach := t.oracle.attach, draws := t.oracle.draws } }) ∧
  (∀ (s t : State) (h : Nat), exec (.deviceDetach h) s = .next t →
    t = { s with
      dev := t.dev, devcfg := t.devcfg, devHandle := t.devHandle, fault := t.fault, ret := t.ret,
      oracle := { s.oracle with detach := t.oracle.detach, draws := t.oracle.draws } }) ∧
  (∀ (s t : State) (id : Nat), exec (.busFree id) s = .next t →
    t = { s with
      bus := t.bus, buscfg := t.buscfg, lines := t.lines, fault := t.fault, ret := t.ret,
      oracle := { s.oracle with busFree := t.oracle.busFree, draws := t.oracle.draws } }) ∧
  ∀ (s t : State) (sel : BitVec 4), exec (.readAttr sel) s = .next t →
    t = { s with fault := t.fault, refused := t.refused, ret := t.ret }

/-- 60_exceptions.md R262, R263: the return code and S.err agree. -/
def Obligations.ReturnCodeAgreesWithErr : Prop :=
  ∀ (i : Instr) (s t : State) (c : Code), Instr.ReturnsCode i → exec i s = .next t → t.ret = .code c →
    (c = .ok → t.err = none) ∧ (c ≠ .ok → ∃ e, t.err = some e ∧ e.code = c)

/-- R267: an error does not end the run, and leaves S.life as it was. -/
def Obligations.ErrorsAreRecoverable : Prop :=
  ∀ (i : Instr) (s t : State) (c : Code), Instr.ReturnsCode i → s.queue = [] → safe s = true →
    exec i s = .next t → t.ret = .code c → c ≠ .ok →
    t.life = s.life ∧ safe t = true ∧ inProgress t = false

/-- 42_framer.md R205, 20_memory.md R69: for equal operands and equal buffers, requests log the same descriptors in
the same order, whatever the statuses: of two requests that end early (by an error, a hang, a fault or a refusal)
one list is a prefix of the other, a request that returns OK logs the longer one, and two that return OK log the
same. Other threads may differ too (log entry 8); memory is in its canonical form, which every step keeps (log
entry 1). -/
def Obligations.FramingIsDeterministic : Prop :=
  ∀ (i : Instr) (s s' t t' : State), Instr.Framer i →
    s.params = s'.params → s.mem = s'.mem → s.buscfg = s'.buscfg → s.mem.wf = true →
    exec i s = .next t → exec i s' = .next t' →
    ∃ ds ds' : List Desc, t.log.map LogEntry.t = s.log.map LogEntry.t ++ ds ∧
      t'.log.map LogEntry.t = s'.log.map LogEntry.t ++ ds' ∧ (ds <+: ds' ∨ ds' <+: ds) ∧
      (t.ret = .code .ok → ds' <+: ds) ∧ (t.ret = .code .ok → t'.ret = .code .ok → ds = ds')

/-! ### Steps -/

/-- A step runs the instruction its next packet decodes to, on the state less that packet (00_scope.md R13,
20_memory.md R70). -/
def Obligations.StepRunsDecodedInstruction : Prop :=
  ∀ (s : State) (p : Packet) (i : Instr) (es : List Event), ReadyToTake s →
    s.inbox = .packet p :: es → decode p = .ok i → step s = exec i { s with inbox := es }

/-- 10_state.md R47, R48: a mark that is set ends the run. -/
def Obligations.MarksAreSticky : Prop :=
  (∀ (s : State) (f : Fault), s.fault = some f → step s = .fault f) ∧
  ∀ (s : State) (r : Refusal), s.fault = none → s.refused = some r → step s = .refused r

/-- 60_exceptions.md R276, 20_memory.md R61: while a request is in progress another thread's request, and
its write to a buffer operand of that request, are refused: here while a request hangs, and in
`ConcurrentUseInsideRequestRefused` inside one that would return. That such actions stand in a list of their own is
log entry 8. -/
def Obligations.ConcurrentUseRefused : Prop :=
  ∀ (s : State) (e : Event) (as : List Arrival), s.fault = none → s.refused = none →
    paramsOk s.params = true → s.seq.req ≠ .idle → s.others = ⟨0, e⟩ :: as → Concurrent s.held e →
    step s = .next (setRefused .concurrent s)

/-- 60_exceptions.md R265, 42_framer.md R201: an ill-formed parameter configuration is refused. -/
def Obligations.IllFormedParametersRefused : Prop :=
  ∀ s : State, s.fault = none → s.refused = none →
    (s.params.chunkBytes = 0 ∨ s.params.maxXferBytes < s.params.chunkBytes ∨
      statusMem 0 s.params.statuses = false) →
    step s = .next (setRefused .param s)

/-- 00_scope.md R13, 60_exceptions.md R278: without a request the block is idle, and the host's write to
its memory changes that memory alone. The inbox is log entry 2. -/
def Obligations.IdleAndHostWrites : Prop :=
  ∀ s : State, ReadyToTake s →
    (s.inbox = [] → step s = .next s) ∧
    ∀ a bs es, s.inbox = .hostWrite a bs :: es →
      step s = .next { s with inbox := es, mem := memSetBytes s.mem a bs }

/-! ### Invariants -/

/-- Every step keeps the machine's invariant, whatever drives the machine (10_state.md R26, R28, R40, R41,
R43, R44). The canonical memory is the model's own (log entry 1); of a machine whose controller interface is driven
directly, that the handle is stored (log entry 14) and that the hardwired bits are 1 whatever the operand says
(log entry 16) are the model's choices. -/
def Obligations.StepKeepsMachineInv : Prop :=
  ∀ s t : State, MachineInv s → step s = .next t → MachineInv t

/-- 10_state.md R25 and R21 to R28: every step of a machine driven by its host alone keeps the lifecycle. -/
def Obligations.StepKeepsLifecycleInv : Prop :=
  ∀ s t : State, HostDriven s → LifecycleInv s → step s = .next t → HostDriven t ∧ LifecycleInv t

/-- 41_line_sequencer.md R169: the wire carries the driven prefixes of the log in its order, at every step of
a machine driven by its host alone. -/
def Obligations.StepKeepsWireInv : Prop :=
  ∀ s t : State, HostDriven s → LifecycleInv s → MachineInv s → WireInv s → step s = .next t → WireInv t

/-! ### Requests that fail, hang or are disturbed -/

/-- R231, R247: under CHECKED the square path stops at the first frame whose status is not 0; E_TX has
WRITE_DATA's operation and the byte offset into the scratch, which holds the full transpose all the same. That an
element is PIXEL_BYTES bytes, where R231 writes 2, is log entry 17. -/
def Obligations.SquareStopsAtFailure : Prop :=
  ∀ (s : State) (h : Nat) (dc : DevCfg) (bc : BusCfg) (src dst : Buf) (answers : List TxAnswer) (st k : Nat)
    (o : Oracle), s.life = .active → Attached s h dc bc → HeaderBits dc → s.others = [] →
    paramsOk s.params = true → s.params.chunkBytes ≤ bc.maxTransferSize → s.mem.wf = true →
    sharesByte src dst = false → dst.len = src.len → src.len = rotSquareBytes s.params →
    s.params.txPolicy = .checked → drawTxs (answers.length + 1) s = (answers ++ [.status st k], o) →
    answers.length ≤ chunkCount s.params dst.len → GoesOn s.params answers → st ≠ 0 →
    ∃ m : Memory, Transposed s.params s.mem m src dst ∧
      exec (.writeDataRotate src dst) s = .next (framedFails dc
        (List.zipWith (entryFor s.params dc) (dataStream s.params m dst) (answers ++ [.status st k])) m o
        (if answers = [] then .writeDataHandshake else .writeDataChunk) st
        (if answers = [] then none else some ((answers.length - 1) * s.params.chunkBytes)) s)

/-- R159, 60_exceptions.md R266: WRITE_CMD, WRITE_DATA and WRITE_DATA_ROTATE whose frame hangs do not return: the
frames before it are logged, the one that hangs is in flight with a prefix of its beats driven, and the request
keeps its position and holds its buffers. -/
def Obligations.FramerRequestsHang : Prop :=
  ∀ (s : State) (h : Nat) (dc : DevCfg) (bc : BusCfg), s.life = .active → Attached s h dc bc →
    HeaderBits dc → s.others = [] → paramsOk s.params = true → s.params.chunkBytes ≤ bc.maxTransferSize →
    s.mem.wf = true →
    (∀ (c : BitVec 8) (params : Option Buf) (b : Buf) (s' : State) (j : Nat), b = params.getD ⟨0, 0⟩ →
      b.len ≤ bc.maxTransferSize → drawTx s = (.hang j, s') →
      let t := Machine.cmdFrame s.params c (memBytes s.mem b.base b.len)
      ∃ ph k l, exec (.writeCmd c params) s = .next (framedHangs dc [] s.mem s'.oracle t
        (min j (serialize s.params.multiline dc t).length) .writeCmd .frame [b] ph k l s)) ∧
    (∀ (b : Buf) (answers : List TxAnswer) (o : Oracle) (j : Nat),
      drawTxs (answers.length + 1) s = (answers ++ [.hang j], o) → GoesOn s.params answers →
      answers.length ≤ chunkCount s.params b.len →
      ∃ t ph k l, (dataStream s.params s.mem b)[answers.length]? = some t ∧
        exec (.writeData b) s = .next (framedHangs dc
          (List.zipWith (entryFor s.params dc) (dataStream s.params s.mem b) answers) s.mem o t
          (min j (serialize s.params.multiline dc t).length) .writeData
          (if answers = [] then .hs else .chunk ((answers.length - 1) * s.params.chunkBytes)) [b] ph k l s)) ∧
    (∀ (src dst : Buf) (answers : List TxAnswer) (o : Oracle) (j : Nat), sharesByte src dst = false →
      drawTxs (answers.length + 1) s = (answers ++ [.hang j], o) → GoesOn s.params answers →
      (dst.len = src.len → src.len = rotSquareBytes s.params →
        answers.length ≤ chunkCount s.params dst.len →
        ∃ m t ph k l, Transposed s.params s.mem m src dst ∧
          (dataStream s.params m dst)[answers.length]? = some t ∧
          exec (.writeDataRotate src dst) s = .next (framedHangs dc
            (List.zipWith (entryFor s.params dc) (dataStream s.params m dst) answers) m o t
            (min j (serialize s.params.multiline dc t).length) .writeDataRotate
            (.delegate (if answers = [] then .hs else .chunk ((answers.length - 1) * s.params.chunkBytes)))
            [src, dst] ph k l s)) ∧
      (dst.len ≠ src.len → dst.len ≠ 0 → dst.len ≤ bc.maxTransferSize → answers.length ≤ rotRows src dst →
        ∃ m t ph k l, GatheredTo s.params s.mem m src dst answers.length ∧
          (gatherStream s.params s.mem src dst)[answers.length]? = some t ∧
          exec (.writeDataRotate src dst) s = .next (framedHangs dc
            (List.zipWith (entryFor s.params dc) (gatherStream s.params s.mem src dst) answers) m o t
            (min j (serialize s.params.multiline dc t).length) .writeDataRotate
            (if answers = [] then .hs else .group (answers.length - 1)) [src, dst] ph k l s)))

/-- 60_exceptions.md R264 (F_UNWRITTEN: no rule reads a field without a value in a run that has not faulted) and
42_framer.md R199 (no framer request is refused R_DESCRIPTOR). -/
def Obligations.NoUnwrittenReadNoIllFormedFrame : Prop :=
  (∀ s t : State, HostDriven s → LifecycleInv s → MachineInv s → step s = .next t →
    t.fault ≠ some .unwritten ∧
    (s.params.cmdBits = 8 → s.params.addrBits = 24 → t.refused ≠ some .descriptor)) ∧
  ∀ (i : Instr) (s t : State), (Instr.Framer i ∨ ∃ c tx, i = .cmdFrame c tx ∨ i = .hsFrame ∨ i = .dataFrame tx) →
    (∀ dc, s.devcfg = some dc → HeaderBits dc) → exec i s = .next t → t.refused = some .descriptor →
    s.refused = some .descriptor

/-- 60_exceptions.md R276, 20_memory.md R61: another thread's request, and its write to a buffer operand, that come
inside a request which would return, are refused, and the request stands where they found it. When they come is
log entry 8; shown before every beat of the request's first frame and at that frame's end, though it drive no beat,
and before every copy of the square transpose. -/
def Obligations.ConcurrentUseInsideRequestRefused : Prop :=
  ∀ (s : State) (h : Nat) (dc : DevCfg) (bc : BusCfg) (a : Arrival) (as : List Arrival), s.life = .active →
    Attached s h dc bc → HeaderBits dc → s.others = a :: as →
    let now : State := { s with others := ⟨0, a.event⟩ :: as }
    (∀ (c : BitVec 8) (params : Option Buf) (b : Buf) (ans : TxAnswer) (s' : State),
      b = params.getD ⟨0, 0⟩ → b.len ≤ bc.maxTransferSize → drawTx s = (ans, s') → Concurrent [b] a.event →
      let t := Machine.cmdFrame s.params c (memBytes s.mem b.base b.len)
      a.wait ≤ beatsUnder ans (serialize s.params.multiline dc t).length →
      ∃ ph k l, exec (.writeCmd c params) s = .next (setRefused .concurrent
        (framedHangs dc [] s.mem s'.oracle t a.wait .writeCmd .frame [b] ph k l now))) ∧
    (∀ (b : Buf) (ans : TxAnswer) (s' : State), drawTx s = (ans, s') → Concurrent [b] a.event →
      let t := Machine.hsFrame s.params
      a.wait ≤ beatsUnder ans (serialize s.params.multiline dc t).length →
      ∃ ph k l, exec (.writeData b) s = .next (setRefused .concurrent
        (framedHangs dc [] s.mem s'.oracle t a.wait .writeData .hs [b] ph k l now))) ∧
    (∀ (src dst : Buf), sharesByte src dst = false → Concurrent [src, dst] a.event →
      (∀ (ans : TxAnswer) (s' : State), drawTx s = (ans, s') → dst.len ≠ src.len → dst.len ≠ 0 →
        dst.len ≤ bc.maxTransferSize →
        let t := Machine.hsFrame s.params
        a.wait ≤ beatsUnder ans (serialize s.params.multiline dc t).length →
        ∃ ph k l, exec (.writeDataRotate src dst) s = .next (setRefused .concurrent
          (framedHangs dc [] s.mem s'.oracle t a.wait .writeDataRotate .hs [src, dst] ph k l now))) ∧
      (dst.len = src.len → src.len = rotSquareBytes s.params → a.wait < s.params.rotW * s.params.rotH →
        ∃ m : Memory, (∀ x, x < dst.base ∨ dst.base + dst.len ≤ x → memByte m x = memByte s.mem x) ∧
          exec (.writeDataRotate src dst) s = .next (setRefused .concurrent
            { now with
              err := none
              held := [src, dst]
              seq := ⟨.busy .writeDataRotate .transpose, s.seq.phase, s.seq.bit⟩
              mem := m })))

/-- 60_exceptions.md R276, 20_memory.md R61: the actions of other threads that come in a request and are not refused
are writes outside its buffers, and the request does what it does without them; only memory, at the bytes they
write, is otherwise. That they may come is log entry 8; memory in its canonical form, which every step keeps
(`StepKeepsMachineInv`), is log entry 1. -/
def Obligations.OtherThreadsChangeMemoryAlone : Prop :=
  ∀ (i : Instr) (s t : State), Instr.Framer i → s.mem.wf = true → exec i s = .next t →
    t.refused ≠ some .concurrent →
    ∃ (came : List Event) (m : Memory),
      s.others.map Arrival.event = came ++ t.others.map Arrival.event ∧
      (∀ e ∈ came, ∃ x bs, e = .hostWrite x bs ∧
        ∀ b ∈ Instr.buffers i, sharesByte ⟨x, bs.length⟩ b = false) ∧
      (∀ a, (∀ x bs, Event.hostWrite x bs ∈ came → a < x ∨ x + bs.length ≤ a) →
        memByte m a = memByte t.mem a) ∧
      exec i { s with others := [] } = .next { t with others := [], mem := m }
end

