-- ==== Sys2Proof/Laws/State.lean ====
section
/-! SUPPORT. The named updates of State, one lemma per field per update (by rfl), so that no later proof
unfolds a record update. -/

namespace Sys2Proof.Machine

variable (s : State)

/-! ### `setFault` -/

@[simp] theorem setFault_life (f : Fault) : (setFault f s).life = s.life := rfl
@[simp] theorem setFault_bus (f : Fault) : (setFault f s).bus = s.bus := rfl
@[simp] theorem setFault_dev (f : Fault) : (setFault f s).dev = s.dev := rfl
@[simp] theorem setFault_cfg (f : Fault) : (setFault f s).cfg = s.cfg := rfl
@[simp] theorem setFault_devHandle (f : Fault) : (setFault f s).devHandle = s.devHandle := rfl
@[simp] theorem setFault_devcfg (f : Fault) : (setFault f s).devcfg = s.devcfg := rfl
@[simp] theorem setFault_buscfg (f : Fault) : (setFault f s).buscfg = s.buscfg := rfl
@[simp] theorem setFault_seq (f : Fault) : (setFault f s).seq = s.seq := rfl
@[simp] theorem setFault_desc (f : Fault) : (setFault f s).desc = s.desc := rfl
@[simp] theorem setFault_lines (f : Fault) : (setFault f s).lines = s.lines := rfl
@[simp] theorem setFault_queue (f : Fault) : (setFault f s).queue = s.queue := rfl
@[simp] theorem setFault_log (f : Fault) : (setFault f s).log = s.log := rfl
@[simp] theorem setFault_err (f : Fault) : (setFault f s).err = s.err := rfl
@[simp] theorem setFault_fault (f : Fault) : (setFault f s).fault = some f := rfl
@[simp] theorem setFault_refused (f : Fault) : (setFault f s).refused = s.refused := rfl
@[simp] theorem setFault_params (f : Fault) : (setFault f s).params = s.params := rfl
@[simp] theorem setFault_mem (f : Fault) : (setFault f s).mem = s.mem := rfl
@[simp] theorem setFault_ret (f : Fault) : (setFault f s).ret = .nothing := rfl
@[simp] theorem setFault_held (f : Fault) : (setFault f s).held = s.held := rfl
@[simp] theorem setFault_wire (f : Fault) : (setFault f s).wire = s.wire := rfl
@[simp] theorem setFault_oracle (f : Fault) : (setFault f s).oracle = s.oracle := rfl
@[simp] theorem setFault_inbox (f : Fault) : (setFault f s).inbox = s.inbox := rfl
@[simp] theorem setFault_others (f : Fault) : (setFault f s).others = s.others := rfl

/-! ### `setRefused` -/

@[simp] theorem setRefused_life (r : Refusal) : (setRefused r s).life = s.life := rfl
@[simp] theorem setRefused_bus (r : Refusal) : (setRefused r s).bus = s.bus := rfl
@[simp] theorem setRefused_dev (r : Refusal) : (setRefused r s).dev = s.dev := rfl
@[simp] theorem setRefused_cfg (r : Refusal) : (setRefused r s).cfg = s.cfg := rfl
@[simp] theorem setRefused_devHandle (r : Refusal) : (setRefused r s).devHandle = s.devHandle := rfl
@[simp] theorem setRefused_devcfg (r : Refusal) : (setRefused r s).devcfg = s.devcfg := rfl
@[simp] theorem setRefused_buscfg (r : Refusal) : (setRefused r s).buscfg = s.buscfg := rfl
@[simp] theorem setRefused_seq (r : Refusal) : (setRefused r s).seq = s.seq := rfl
@[simp] theorem setRefused_desc (r : Refusal) : (setRefused r s).desc = s.desc := rfl
@[simp] theorem setRefused_lines (r : Refusal) : (setRefused r s).lines = s.lines := rfl
@[simp] theorem setRefused_queue (r : Refusal) : (setRefused r s).queue = s.queue := rfl
@[simp] theorem setRefused_log (r : Refusal) : (setRefused r s).log = s.log := rfl
@[simp] theorem setRefused_err (r : Refusal) : (setRefused r s).err = s.err := rfl
@[simp] theorem setRefused_fault (r : Refusal) : (setRefused r s).fault = s.fault := rfl
@[simp] theorem setRefused_refused (r : Refusal) : (setRefused r s).refused = some r := rfl
@[simp] theorem setRefused_params (r : Refusal) : (setRefused r s).params = s.params := rfl
@[simp] theorem setRefused_mem (r : Refusal) : (setRefused r s).mem = s.mem := rfl
@[simp] theorem setRefused_ret (r : Refusal) : (setRefused r s).ret = .nothing := rfl
@[simp] theorem setRefused_held (r : Refusal) : (setRefused r s).held = s.held := rfl
@[simp] theorem setRefused_wire (r : Refusal) : (setRefused r s).wire = s.wire := rfl
@[simp] theorem setRefused_oracle (r : Refusal) : (setRefused r s).oracle = s.oracle := rfl
@[simp] theorem setRefused_inbox (r : Refusal) : (setRefused r s).inbox = s.inbox := rfl
@[simp] theorem setRefused_others (r : Refusal) : (setRefused r s).others = s.others := rfl

/-! ### `raise` -/

@[simp] theorem raise_life (c : Code) (op : OpName) (st off : Option Nat) : (raise c op st off s).life = s.life := rfl
@[simp] theorem raise_bus (c : Code) (op : OpName) (st off : Option Nat) : (raise c op st off s).bus = s.bus := rfl
@[simp] theorem raise_dev (c : Code) (op : OpName) (st off : Option Nat) : (raise c op st off s).dev = s.dev := rfl
@[simp] theorem raise_cfg (c : Code) (op : OpName) (st off : Option Nat) : (raise c op st off s).cfg = s.cfg := rfl
@[simp] theorem raise_devHandle (c : Code) (op : OpName) (st off : Option Nat) : (raise c op st off s).devHandle = s.devHandle := rfl
@[simp] theorem raise_devcfg (c : Code) (op : OpName) (st off : Option Nat) : (raise c op st off s).devcfg = s.devcfg := rfl
@[simp] theorem raise_buscfg (c : Code) (op : OpName) (st off : Option Nat) : (raise c op st off s).buscfg = s.buscfg := rfl
@[simp] theorem raise_seq (c : Code) (op : OpName) (st off : Option Nat) : (raise c op st off s).seq = .idle := rfl
@[simp] theorem raise_desc (c : Code) (op : OpName) (st off : Option Nat) : (raise c op st off s).desc = s.desc := rfl
@[simp] theorem raise_lines (c : Code) (op : OpName) (st off : Option Nat) : (raise c op st off s).lines = s.lines := rfl
@[simp] theorem raise_queue (c : Code) (op : OpName) (st off : Option Nat) : (raise c op st off s).queue = s.queue := rfl
@[simp] theorem raise_log (c : Code) (op : OpName) (st off : Option Nat) : (raise c op st off s).log = s.log := rfl
@[simp] theorem raise_err (c : Code) (op : OpName) (st off : Option Nat) : (raise c op st off s).err = some ⟨c, op, st, off⟩ := rfl
@[simp] theorem raise_fault (c : Code) (op : OpName) (st off : Option Nat) : (raise c op st off s).fault = s.fault := rfl
@[simp] theorem raise_refused (c : Code) (op : OpName) (st off : Option Nat) : (raise c op st off s).refused = s.refused := rfl
@[simp] theorem raise_params (c : Code) (op : OpName) (st off : Option Nat) : (raise c op st off s).params = s.params := rfl
@[simp] theorem raise_mem (c : Code) (op : OpName) (st off : Option Nat) : (raise c op st off s).mem = s.mem := rfl
@[simp] theorem raise_ret (c : Code) (op : OpName) (st off : Option Nat) : (raise c op st off s).ret = .code c := rfl
@[simp] theorem raise_held (c : Code) (op : OpName) (st off : Option Nat) : (raise c op st off s).held = [] := rfl
@[simp] theorem raise_wire (c : Code) (op : OpName) (st off : Option Nat) : (raise c op st off s).wire = s.wire := rfl
@[simp] theorem raise_oracle (c : Code) (op : OpName) (st off : Option Nat) : (raise c op st off s).oracle = s.oracle := rfl
@[simp] theorem raise_inbox (c : Code) (op : OpName) (st off : Option Nat) : (raise c op st off s).inbox = s.inbox := rfl
@[simp] theorem raise_others (c : Code) (op : OpName) (st off : Option Nat) : (raise c op st off s).others = s.others := rfl

/-! ### `clearErr` -/

@[simp] theorem clearErr_life : (clearErr s).life = s.life := rfl
@[simp] theorem clearErr_bus : (clearErr s).bus = s.bus := rfl
@[simp] theorem clearErr_dev : (clearErr s).dev = s.dev := rfl
@[simp] theorem clearErr_cfg : (clearErr s).cfg = s.cfg := rfl
@[simp] theorem clearErr_devHandle : (clearErr s).devHandle = s.devHandle := rfl
@[simp] theorem clearErr_devcfg : (clearErr s).devcfg = s.devcfg := rfl
@[simp] theorem clearErr_buscfg : (clearErr s).buscfg = s.buscfg := rfl
@[simp] theorem clearErr_seq : (clearErr s).seq = s.seq := rfl
@[simp] theorem clearErr_desc : (clearErr s).desc = s.desc := rfl
@[simp] theorem clearErr_lines : (clearErr s).lines = s.lines := rfl
@[simp] theorem clearErr_queue : (clearErr s).queue = s.queue := rfl
@[simp] theorem clearErr_log : (clearErr s).log = s.log := rfl
@[simp] theorem clearErr_err : (clearErr s).err = none := rfl
@[simp] theorem clearErr_fault : (clearErr s).fault = s.fault := rfl
@[simp] theorem clearErr_refused : (clearErr s).refused = s.refused := rfl
@[simp] theorem clearErr_params : (clearErr s).params = s.params := rfl
@[simp] theorem clearErr_mem : (clearErr s).mem = s.mem := rfl
@[simp] theorem clearErr_ret : (clearErr s).ret = s.ret := rfl
@[simp] theorem clearErr_held : (clearErr s).held = s.held := rfl
@[simp] theorem clearErr_wire : (clearErr s).wire = s.wire := rfl
@[simp] theorem clearErr_oracle : (clearErr s).oracle = s.oracle := rfl
@[simp] theorem clearErr_inbox : (clearErr s).inbox = s.inbox := rfl
@[simp] theorem clearErr_others : (clearErr s).others = s.others := rfl

/-! ### `setPos` -/

@[simp] theorem setPos_life (op : SeqOp) (p : Pos) : (setPos op p s).life = s.life := rfl
@[simp] theorem setPos_bus (op : SeqOp) (p : Pos) : (setPos op p s).bus = s.bus := rfl
@[simp] theorem setPos_dev (op : SeqOp) (p : Pos) : (setPos op p s).dev = s.dev := rfl
@[simp] theorem setPos_cfg (op : SeqOp) (p : Pos) : (setPos op p s).cfg = s.cfg := rfl
@[simp] theorem setPos_devHandle (op : SeqOp) (p : Pos) : (setPos op p s).devHandle = s.devHandle := rfl
@[simp] theorem setPos_devcfg (op : SeqOp) (p : Pos) : (setPos op p s).devcfg = s.devcfg := rfl
@[simp] theorem setPos_buscfg (op : SeqOp) (p : Pos) : (setPos op p s).buscfg = s.buscfg := rfl
@[simp] theorem setPos_seq (op : SeqOp) (p : Pos) : (setPos op p s).seq = ⟨.busy op p, s.seq.phase, s.seq.bit⟩ := rfl
@[simp] theorem setPos_desc (op : SeqOp) (p : Pos) : (setPos op p s).desc = s.desc := rfl
@[simp] theorem setPos_lines (op : SeqOp) (p : Pos) : (setPos op p s).lines = s.lines := rfl
@[simp] theorem setPos_queue (op : SeqOp) (p : Pos) : (setPos op p s).queue = s.queue := rfl
@[simp] theorem setPos_log (op : SeqOp) (p : Pos) : (setPos op p s).log = s.log := rfl
@[simp] theorem setPos_err (op : SeqOp) (p : Pos) : (setPos op p s).err = s.err := rfl
@[simp] theorem setPos_fault (op : SeqOp) (p : Pos) : (setPos op p s).fault = s.fault := rfl
@[simp] theorem setPos_refused (op : SeqOp) (p : Pos) : (setPos op p s).refused = s.refused := rfl
@[simp] theorem setPos_params (op : SeqOp) (p : Pos) : (setPos op p s).params = s.params := rfl
@[simp] theorem setPos_mem (op : SeqOp) (p : Pos) : (setPos op p s).mem = s.mem := rfl
@[simp] theorem setPos_ret (op : SeqOp) (p : Pos) : (setPos op p s).ret = s.ret := rfl
@[simp] theorem setPos_held (op : SeqOp) (p : Pos) : (setPos op p s).held = s.held := rfl
@[simp] theorem setPos_wire (op : SeqOp) (p : Pos) : (setPos op p s).wire = s.wire := rfl
@[simp] theorem setPos_oracle (op : SeqOp) (p : Pos) : (setPos op p s).oracle = s.oracle := rfl
@[simp] theorem setPos_inbox (op : SeqOp) (p : Pos) : (setPos op p s).inbox = s.inbox := rfl
@[simp] theorem setPos_others (op : SeqOp) (p : Pos) : (setPos op p s).others = s.others := rfl

/-! ### `setReqIdle` -/

@[simp] theorem setReqIdle_life : (setReqIdle s).life = s.life := rfl
@[simp] theorem setReqIdle_bus : (setReqIdle s).bus = s.bus := rfl
@[simp] theorem setReqIdle_dev : (setReqIdle s).dev = s.dev := rfl
@[simp] theorem setReqIdle_cfg : (setReqIdle s).cfg = s.cfg := rfl
@[simp] theorem setReqIdle_devHandle : (setReqIdle s).devHandle = s.devHandle := rfl
@[simp] theorem setReqIdle_devcfg : (setReqIdle s).devcfg = s.devcfg := rfl
@[simp] theorem setReqIdle_buscfg : (setReqIdle s).buscfg = s.buscfg := rfl
@[simp] theorem setReqIdle_seq : (setReqIdle s).seq = ⟨.idle, s.seq.phase, s.seq.bit⟩ := rfl
@[simp] theorem setReqIdle_desc : (setReqIdle s).desc = s.desc := rfl
@[simp] theorem setReqIdle_lines : (setReqIdle s).lines = s.lines := rfl
@[simp] theorem setReqIdle_queue : (setReqIdle s).queue = s.queue := rfl
@[simp] theorem setReqIdle_log : (setReqIdle s).log = s.log := rfl
@[simp] theorem setReqIdle_err : (setReqIdle s).err = s.err := rfl
@[simp] theorem setReqIdle_fault : (setReqIdle s).fault = s.fault := rfl
@[simp] theorem setReqIdle_refused : (setReqIdle s).refused = s.refused := rfl
@[simp] theorem setReqIdle_params : (setReqIdle s).params = s.params := rfl
@[simp] theorem setReqIdle_mem : (setReqIdle s).mem = s.mem := rfl
@[simp] theorem setReqIdle_ret : (setReqIdle s).ret = s.ret := rfl
@[simp] theorem setReqIdle_held : (setReqIdle s).held = [] := rfl
@[simp] theorem setReqIdle_wire : (setReqIdle s).wire = s.wire := rfl
@[simp] theorem setReqIdle_oracle : (setReqIdle s).oracle = s.oracle := rfl
@[simp] theorem setReqIdle_inbox : (setReqIdle s).inbox = s.inbox := rfl
@[simp] theorem setReqIdle_others : (setReqIdle s).others = s.others := rfl

/-! ### `setHeld` -/

@[simp] theorem setHeld_life (bs : List Buf) : (setHeld bs s).life = s.life := rfl
@[simp] theorem setHeld_bus (bs : List Buf) : (setHeld bs s).bus = s.bus := rfl
@[simp] theorem setHeld_dev (bs : List Buf) : (setHeld bs s).dev = s.dev := rfl
@[simp] theorem setHeld_cfg (bs : List Buf) : (setHeld bs s).cfg = s.cfg := rfl
@[simp] theorem setHeld_devHandle (bs : List Buf) : (setHeld bs s).devHandle = s.devHandle := rfl
@[simp] theorem setHeld_devcfg (bs : List Buf) : (setHeld bs s).devcfg = s.devcfg := rfl
@[simp] theorem setHeld_buscfg (bs : List Buf) : (setHeld bs s).buscfg = s.buscfg := rfl
@[simp] theorem setHeld_seq (bs : List Buf) : (setHeld bs s).seq = s.seq := rfl
@[simp] theorem setHeld_desc (bs : List Buf) : (setHeld bs s).desc = s.desc := rfl
@[simp] theorem setHeld_lines (bs : List Buf) : (setHeld bs s).lines = s.lines := rfl
@[simp] theorem setHeld_queue (bs : List Buf) : (setHeld bs s).queue = s.queue := rfl
@[simp] theorem setHeld_log (bs : List Buf) : (setHeld bs s).log = s.log := rfl
@[simp] theorem setHeld_err (bs : List Buf) : (setHeld bs s).err = s.err := rfl
@[simp] theorem setHeld_fault (bs : List Buf) : (setHeld bs s).fault = s.fault := rfl
@[simp] theorem setHeld_refused (bs : List Buf) : (setHeld bs s).refused = s.refused := rfl
@[simp] theorem setHeld_params (bs : List Buf) : (setHeld bs s).params = s.params := rfl
@[simp] theorem setHeld_mem (bs : List Buf) : (setHeld bs s).mem = s.mem := rfl
@[simp] theorem setHeld_ret (bs : List Buf) : (setHeld bs s).ret = s.ret := rfl
@[simp] theorem setHeld_held (bs : List Buf) : (setHeld bs s).held = bs := rfl
@[simp] theorem setHeld_wire (bs : List Buf) : (setHeld bs s).wire = s.wire := rfl
@[simp] theorem setHeld_oracle (bs : List Buf) : (setHeld bs s).oracle = s.oracle := rfl
@[simp] theorem setHeld_inbox (bs : List Buf) : (setHeld bs s).inbox = s.inbox := rfl
@[simp] theorem setHeld_others (bs : List Buf) : (setHeld bs s).others = s.others := rfl

/-! ### `setRet` -/

@[simp] theorem setRet_life (r : Ret) : (setRet r s).life = s.life := rfl
@[simp] theorem setRet_bus (r : Ret) : (setRet r s).bus = s.bus := rfl
@[simp] theorem setRet_dev (r : Ret) : (setRet r s).dev = s.dev := rfl
@[simp] theorem setRet_cfg (r : Ret) : (setRet r s).cfg = s.cfg := rfl
@[simp] theorem setRet_devHandle (r : Ret) : (setRet r s).devHandle = s.devHandle := rfl
@[simp] theorem setRet_devcfg (r : Ret) : (setRet r s).devcfg = s.devcfg := rfl
@[simp] theorem setRet_buscfg (r : Ret) : (setRet r s).buscfg = s.buscfg := rfl
@[simp] theorem setRet_seq (r : Ret) : (setRet r s).seq = s.seq := rfl
@[simp] theorem setRet_desc (r : Ret) : (setRet r s).desc = s.desc := rfl
@[simp] theorem setRet_lines (r : Ret) : (setRet r s).lines = s.lines := rfl
@[simp] theorem setRet_queue (r : Ret) : (setRet r s).queue = s.queue := rfl
@[simp] theorem setRet_log (r : Ret) : (setRet r s).log = s.log := rfl
@[simp] theorem setRet_err (r : Ret) : (setRet r s).err = s.err := rfl
@[simp] theorem setRet_fault (r : Ret) : (setRet r s).fault = s.fault := rfl
@[simp] theorem setRet_refused (r : Ret) : (setRet r s).refused = s.refused := rfl
@[simp] theorem setRet_params (r : Ret) : (setRet r s).params = s.params := rfl
@[simp] theorem setRet_mem (r : Ret) : (setRet r s).mem = s.mem := rfl
@[simp] theorem setRet_ret (r : Ret) : (setRet r s).ret = r := rfl
@[simp] theorem setRet_held (r : Ret) : (setRet r s).held = s.held := rfl
@[simp] theorem setRet_wire (r : Ret) : (setRet r s).wire = s.wire := rfl
@[simp] theorem setRet_oracle (r : Ret) : (setRet r s).oracle = s.oracle := rfl
@[simp] theorem setRet_inbox (r : Ret) : (setRet r s).inbox = s.inbox := rfl
@[simp] theorem setRet_others (r : Ret) : (setRet r s).others = s.others := rfl

/-! ### `hostWrite` -/

@[simp] theorem hostWrite_life (a : Nat) (bs : List Byte) : (hostWrite a bs s).life = s.life := rfl
@[simp] theorem hostWrite_bus (a : Nat) (bs : List Byte) : (hostWrite a bs s).bus = s.bus := rfl
@[simp] theorem hostWrite_dev (a : Nat) (bs : List Byte) : (hostWrite a bs s).dev = s.dev := rfl
@[simp] theorem hostWrite_cfg (a : Nat) (bs : List Byte) : (hostWrite a bs s).cfg = s.cfg := rfl
@[simp] theorem hostWrite_devHandle (a : Nat) (bs : List Byte) : (hostWrite a bs s).devHandle = s.devHandle := rfl
@[simp] theorem hostWrite_devcfg (a : Nat) (bs : List Byte) : (hostWrite a bs s).devcfg = s.devcfg := rfl
@[simp] theorem hostWrite_buscfg (a : Nat) (bs : List Byte) : (hostWrite a bs s).buscfg = s.buscfg := rfl
@[simp] theorem hostWrite_seq (a : Nat) (bs : List Byte) : (hostWrite a bs s).seq = s.seq := rfl
@[simp] theorem hostWrite_desc (a : Nat) (bs : List Byte) : (hostWrite a bs s).desc = s.desc := rfl
@[simp] theorem hostWrite_lines (a : Nat) (bs : List Byte) : (hostWrite a bs s).lines = s.lines := rfl
@[simp] theorem hostWrite_queue (a : Nat) (bs : List Byte) : (hostWrite a bs s).queue = s.queue := rfl
@[simp] theorem hostWrite_log (a : Nat) (bs : List Byte) : (hostWrite a bs s).log = s.log := rfl
@[simp] theorem hostWrite_err (a : Nat) (bs : List Byte) : (hostWrite a bs s).err = s.err := rfl
@[simp] theorem hostWrite_fault (a : Nat) (bs : List Byte) : (hostWrite a bs s).fault = s.fault := rfl
@[simp] theorem hostWrite_refused (a : Nat) (bs : List Byte) : (hostWrite a bs s).refused = s.refused := rfl
@[simp] theorem hostWrite_params (a : Nat) (bs : List Byte) : (hostWrite a bs s).params = s.params := rfl
@[simp] theorem hostWrite_mem (a : Nat) (bs : List Byte) : (hostWrite a bs s).mem = memSetBytes s.mem a bs := rfl
@[simp] theorem hostWrite_ret (a : Nat) (bs : List Byte) : (hostWrite a bs s).ret = s.ret := rfl
@[simp] theorem hostWrite_held (a : Nat) (bs : List Byte) : (hostWrite a bs s).held = s.held := rfl
@[simp] theorem hostWrite_wire (a : Nat) (bs : List Byte) : (hostWrite a bs s).wire = s.wire := rfl
@[simp] theorem hostWrite_oracle (a : Nat) (bs : List Byte) : (hostWrite a bs s).oracle = s.oracle := rfl
@[simp] theorem hostWrite_inbox (a : Nat) (bs : List Byte) : (hostWrite a bs s).inbox = s.inbox := rfl
@[simp] theorem hostWrite_others (a : Nat) (bs : List Byte) : (hostWrite a bs s).others = s.others := rfl

/-! ### `startFrame` -/

@[simp] theorem startFrame_life (dc : DevCfg) (t : Desc) : (startFrame dc t s).life = s.life := rfl
@[simp] theorem startFrame_bus (dc : DevCfg) (t : Desc) : (startFrame dc t s).bus = s.bus := rfl
@[simp] theorem startFrame_dev (dc : DevCfg) (t : Desc) : (startFrame dc t s).dev = s.dev := rfl
@[simp] theorem startFrame_cfg (dc : DevCfg) (t : Desc) : (startFrame dc t s).cfg = s.cfg := rfl
@[simp] theorem startFrame_devHandle (dc : DevCfg) (t : Desc) : (startFrame dc t s).devHandle = s.devHandle := rfl
@[simp] theorem startFrame_devcfg (dc : DevCfg) (t : Desc) : (startFrame dc t s).devcfg = s.devcfg := rfl
@[simp] theorem startFrame_buscfg (dc : DevCfg) (t : Desc) : (startFrame dc t s).buscfg = s.buscfg := rfl
@[simp] theorem startFrame_seq (dc : DevCfg) (t : Desc) : (startFrame dc t s).seq = ⟨s.seq.req, firstPhase dc t [.cmd, .addr, .dummy, .data], 0⟩ := rfl
@[simp] theorem startFrame_desc (dc : DevCfg) (t : Desc) : (startFrame dc t s).desc = some t := rfl
@[simp] theorem startFrame_lines (dc : DevCfg) (t : Desc) : (startFrame dc t s).lines = s.lines := rfl
@[simp] theorem startFrame_queue (dc : DevCfg) (t : Desc) : (startFrame dc t s).queue = [t] := rfl
@[simp] theorem startFrame_log (dc : DevCfg) (t : Desc) : (startFrame dc t s).log = s.log := rfl
@[simp] theorem startFrame_err (dc : DevCfg) (t : Desc) : (startFrame dc t s).err = s.err := rfl
@[simp] theorem startFrame_fault (dc : DevCfg) (t : Desc) : (startFrame dc t s).fault = s.fault := rfl
@[simp] theorem startFrame_refused (dc : DevCfg) (t : Desc) : (startFrame dc t s).refused = s.refused := rfl
@[simp] theorem startFrame_params (dc : DevCfg) (t : Desc) : (startFrame dc t s).params = s.params := rfl
@[simp] theorem startFrame_mem (dc : DevCfg) (t : Desc) : (startFrame dc t s).mem = s.mem := rfl
@[simp] theorem startFrame_ret (dc : DevCfg) (t : Desc) : (startFrame dc t s).ret = s.ret := rfl
@[simp] theorem startFrame_held (dc : DevCfg) (t : Desc) : (startFrame dc t s).held = s.held := rfl
@[simp] theorem startFrame_wire (dc : DevCfg) (t : Desc) : (startFrame dc t s).wire = s.wire := rfl
@[simp] theorem startFrame_oracle (dc : DevCfg) (t : Desc) : (startFrame dc t s).oracle = s.oracle := rfl
@[simp] theorem startFrame_inbox (dc : DevCfg) (t : Desc) : (startFrame dc t s).inbox = s.inbox := rfl
@[simp] theorem startFrame_others (dc : DevCfg) (t : Desc) : (startFrame dc t s).others = s.others := rfl

/-! ### `endFrame` -/

@[simp] theorem endFrame_life (dc : DevCfg) (t : Desc) (st k : Nat) : (endFrame dc t st k s).life = s.life := rfl
@[simp] theorem endFrame_bus (dc : DevCfg) (t : Desc) (st k : Nat) : (endFrame dc t st k s).bus = s.bus := rfl
@[simp] theorem endFrame_dev (dc : DevCfg) (t : Desc) (st k : Nat) : (endFrame dc t st k s).dev = s.dev := rfl
@[simp] theorem endFrame_cfg (dc : DevCfg) (t : Desc) (st k : Nat) : (endFrame dc t st k s).cfg = s.cfg := rfl
@[simp] theorem endFrame_devHandle (dc : DevCfg) (t : Desc) (st k : Nat) : (endFrame dc t st k s).devHandle = s.devHandle := rfl
@[simp] theorem endFrame_devcfg (dc : DevCfg) (t : Desc) (st k : Nat) : (endFrame dc t st k s).devcfg = s.devcfg := rfl
@[simp] theorem endFrame_buscfg (dc : DevCfg) (t : Desc) (st k : Nat) : (endFrame dc t st k s).buscfg = s.buscfg := rfl
@[simp] theorem endFrame_seq (dc : DevCfg) (t : Desc) (st k : Nat) : (endFrame dc t st k s).seq = ⟨s.seq.req, none, 0⟩ := rfl
@[simp] theorem endFrame_desc (dc : DevCfg) (t : Desc) (st k : Nat) : (endFrame dc t st k s).desc = none := rfl
@[simp] theorem endFrame_lines (dc : DevCfg) (t : Desc) (st k : Nat) : (endFrame dc t st k s).lines = ⟨idleSck dc.mode, ⟨.z, .z, .z, .z⟩⟩ := rfl
@[simp] theorem endFrame_queue (dc : DevCfg) (t : Desc) (st k : Nat) : (endFrame dc t st k s).queue = [] := rfl
@[simp] theorem endFrame_log (dc : DevCfg) (t : Desc) (st k : Nat) : (endFrame dc t st k s).log = s.log ++ [⟨t, st, k⟩] := rfl
@[simp] theorem endFrame_err (dc : DevCfg) (t : Desc) (st k : Nat) : (endFrame dc t st k s).err = s.err := rfl
@[simp] theorem endFrame_fault (dc : DevCfg) (t : Desc) (st k : Nat) : (endFrame dc t st k s).fault = s.fault := rfl
@[simp] theorem endFrame_refused (dc : DevCfg) (t : Desc) (st k : Nat) : (endFrame dc t st k s).refused = s.refused := rfl
@[simp] theorem endFrame_params (dc : DevCfg) (t : Desc) (st k : Nat) : (endFrame dc t st k s).params = s.params := rfl
@[simp] theorem endFrame_mem (dc : DevCfg) (t : Desc) (st k : Nat) : (endFrame dc t st k s).mem = s.mem := rfl
@[simp] theorem endFrame_ret (dc : DevCfg) (t : Desc) (st k : Nat) : (endFrame dc t st k s).ret = s.ret := rfl
@[simp] theorem endFrame_held (dc : DevCfg) (t : Desc) (st k : Nat) : (endFrame dc t st k s).held = s.held := rfl
@[simp] theorem endFrame_wire (dc : DevCfg) (t : Desc) (st k : Nat) : (endFrame dc t st k s).wire = s.wire := rfl
@[simp] theorem endFrame_oracle (dc : DevCfg) (t : Desc) (st k : Nat) : (endFrame dc t st k s).oracle = s.oracle := rfl
@[simp] theorem endFrame_inbox (dc : DevCfg) (t : Desc) (st k : Nat) : (endFrame dc t st k s).inbox = s.inbox := rfl
@[simp] theorem endFrame_others (dc : DevCfg) (t : Desc) (st k : Nat) : (endFrame dc t st k s).others = s.others := rfl

/-! ### `writeBuscfg` -/

@[simp] theorem writeBuscfg_life (bc : BusReq) : (writeBuscfg bc s).life = s.life := rfl
@[simp] theorem writeBuscfg_bus (bc : BusReq) : (writeBuscfg bc s).bus = .ready := rfl
@[simp] theorem writeBuscfg_dev (bc : BusReq) : (writeBuscfg bc s).dev = s.dev := rfl
@[simp] theorem writeBuscfg_cfg (bc : BusReq) : (writeBuscfg bc s).cfg = s.cfg := rfl
@[simp] theorem writeBuscfg_devHandle (bc : BusReq) : (writeBuscfg bc s).devHandle = s.devHandle := rfl
@[simp] theorem writeBuscfg_devcfg (bc : BusReq) : (writeBuscfg bc s).devcfg = s.devcfg := rfl
@[simp] theorem writeBuscfg_buscfg (bc : BusReq) : (writeBuscfg bc s).buscfg = some ⟨{ bc with master := true, quadGpio := true }, s.params.dmaCh⟩ := rfl
@[simp] theorem writeBuscfg_seq (bc : BusReq) : (writeBuscfg bc s).seq = s.seq := rfl
@[simp] theorem writeBuscfg_desc (bc : BusReq) : (writeBuscfg bc s).desc = s.desc := rfl
@[simp] theorem writeBuscfg_lines (bc : BusReq) : (writeBuscfg bc s).lines = s.lines := rfl
@[simp] theorem writeBuscfg_queue (bc : BusReq) : (writeBuscfg bc s).queue = s.queue := rfl
@[simp] theorem writeBuscfg_log (bc : BusReq) : (writeBuscfg bc s).log = s.log := rfl
@[simp] theorem writeBuscfg_err (bc : BusReq) : (writeBuscfg bc s).err = s.err := rfl
@[simp] theorem writeBuscfg_fault (bc : BusReq) : (writeBuscfg bc s).fault = s.fault := rfl
@[simp] theorem writeBuscfg_refused (bc : BusReq) : (writeBuscfg bc s).refused = s.refused := rfl
@[simp] theorem writeBuscfg_params (bc : BusReq) : (writeBuscfg bc s).params = s.params := rfl
@[simp] theorem writeBuscfg_mem (bc : BusReq) : (writeBuscfg bc s).mem = s.mem := rfl
@[simp] theorem writeBuscfg_ret (bc : BusReq) : (writeBuscfg bc s).ret = s.ret := rfl
@[simp] theorem writeBuscfg_held (bc : BusReq) : (writeBuscfg bc s).held = s.held := rfl
@[simp] theorem writeBuscfg_wire (bc : BusReq) : (writeBuscfg bc s).wire = s.wire := rfl
@[simp] theorem writeBuscfg_oracle (bc : BusReq) : (writeBuscfg bc s).oracle = s.oracle := rfl
@[simp] theorem writeBuscfg_inbox (bc : BusReq) : (writeBuscfg bc s).inbox = s.inbox := rfl
@[simp] theorem writeBuscfg_others (bc : BusReq) : (writeBuscfg bc s).others = s.others := rfl

/-! ### `clearBuscfg` -/

@[simp] theorem clearBuscfg_life : (clearBuscfg s).life = s.life := rfl
@[simp] theorem clearBuscfg_bus : (clearBuscfg s).bus = .free := rfl
@[simp] theorem clearBuscfg_dev : (clearBuscfg s).dev = s.dev := rfl
@[simp] theorem clearBuscfg_cfg : (clearBuscfg s).cfg = s.cfg := rfl
@[simp] theorem clearBuscfg_devHandle : (clearBuscfg s).devHandle = s.devHandle := rfl
@[simp] theorem clearBuscfg_devcfg : (clearBuscfg s).devcfg = s.devcfg := rfl
@[simp] theorem clearBuscfg_buscfg : (clearBuscfg s).buscfg = none := rfl
@[simp] theorem clearBuscfg_seq : (clearBuscfg s).seq = s.seq := rfl
@[simp] theorem clearBuscfg_desc : (clearBuscfg s).desc = s.desc := rfl
@[simp] theorem clearBuscfg_lines : (clearBuscfg s).lines = .undriven := rfl
@[simp] theorem clearBuscfg_queue : (clearBuscfg s).queue = s.queue := rfl
@[simp] theorem clearBuscfg_log : (clearBuscfg s).log = s.log := rfl
@[simp] theorem clearBuscfg_err : (clearBuscfg s).err = s.err := rfl
@[simp] theorem clearBuscfg_fault : (clearBuscfg s).fault = s.fault := rfl
@[simp] theorem clearBuscfg_refused : (clearBuscfg s).refused = s.refused := rfl
@[simp] theorem clearBuscfg_params : (clearBuscfg s).params = s.params := rfl
@[simp] theorem clearBuscfg_mem : (clearBuscfg s).mem = s.mem := rfl
@[simp] theorem clearBuscfg_ret : (clearBuscfg s).ret = s.ret := rfl
@[simp] theorem clearBuscfg_held : (clearBuscfg s).held = s.held := rfl
@[simp] theorem clearBuscfg_wire : (clearBuscfg s).wire = s.wire := rfl
@[simp] theorem clearBuscfg_oracle : (clearBuscfg s).oracle = s.oracle := rfl
@[simp] theorem clearBuscfg_inbox : (clearBuscfg s).inbox = s.inbox := rfl
@[simp] theorem clearBuscfg_others : (clearBuscfg s).others = s.others := rfl

/-! ### `writeDevcfg` -/

@[simp] theorem writeDevcfg_life (dc : DevCfg) : (writeDevcfg dc s).life = s.life := rfl
@[simp] theorem writeDevcfg_bus (dc : DevCfg) : (writeDevcfg dc s).bus = s.bus := rfl
@[simp] theorem writeDevcfg_dev (dc : DevCfg) : (writeDevcfg dc s).dev = .attached := rfl
@[simp] theorem writeDevcfg_cfg (dc : DevCfg) : (writeDevcfg dc s).cfg = s.cfg := rfl
@[simp] theorem writeDevcfg_devHandle (dc : DevCfg) : (writeDevcfg dc s).devHandle = s.devHandle := rfl
@[simp] theorem writeDevcfg_devcfg (dc : DevCfg) : (writeDevcfg dc s).devcfg = some { dc with noCs := true, halfDuplex := true } := rfl
@[simp] theorem writeDevcfg_buscfg (dc : DevCfg) : (writeDevcfg dc s).buscfg = s.buscfg := rfl
@[simp] theorem writeDevcfg_seq (dc : DevCfg) : (writeDevcfg dc s).seq = s.seq := rfl
@[simp] theorem writeDevcfg_desc (dc : DevCfg) : (writeDevcfg dc s).desc = s.desc := rfl
@[simp] theorem writeDevcfg_lines (dc : DevCfg) : (writeDevcfg dc s).lines = ⟨idleSck dc.mode, s.lines.d⟩ := rfl
@[simp] theorem writeDevcfg_queue (dc : DevCfg) : (writeDevcfg dc s).queue = s.queue := rfl
@[simp] theorem writeDevcfg_log (dc : DevCfg) : (writeDevcfg dc s).log = s.log := rfl
@[simp] theorem writeDevcfg_err (dc : DevCfg) : (writeDevcfg dc s).err = s.err := rfl
@[simp] theorem writeDevcfg_fault (dc : DevCfg) : (writeDevcfg dc s).fault = s.fault := rfl
@[simp] theorem writeDevcfg_refused (dc : DevCfg) : (writeDevcfg dc s).refused = s.refused := rfl
@[simp] theorem writeDevcfg_params (dc : DevCfg) : (writeDevcfg dc s).params = s.params := rfl
@[simp] theorem writeDevcfg_mem (dc : DevCfg) : (writeDevcfg dc s).mem = s.mem := rfl
@[simp] theorem writeDevcfg_ret (dc : DevCfg) : (writeDevcfg dc s).ret = s.ret := rfl
@[simp] theorem writeDevcfg_held (dc : DevCfg) : (writeDevcfg dc s).held = s.held := rfl
@[simp] theorem writeDevcfg_wire (dc : DevCfg) : (writeDevcfg dc s).wire = s.wire := rfl
@[simp] theorem writeDevcfg_oracle (dc : DevCfg) : (writeDevcfg dc s).oracle = s.oracle := rfl
@[simp] theorem writeDevcfg_inbox (dc : DevCfg) : (writeDevcfg dc s).inbox = s.inbox := rfl
@[simp] theorem writeDevcfg_others (dc : DevCfg) : (writeDevcfg dc s).others = s.others := rfl

/-! ### `clearDevcfg` -/

@[simp] theorem clearDevcfg_life : (clearDevcfg s).life = s.life := rfl
@[simp] theorem clearDevcfg_bus : (clearDevcfg s).bus = s.bus := rfl
@[simp] theorem clearDevcfg_dev : (clearDevcfg s).dev = .detached := rfl
@[simp] theorem clearDevcfg_cfg : (clearDevcfg s).cfg = s.cfg := rfl
@[simp] theorem clearDevcfg_devHandle : (clearDevcfg s).devHandle = none := rfl
@[simp] theorem clearDevcfg_devcfg : (clearDevcfg s).devcfg = none := rfl
@[simp] theorem clearDevcfg_buscfg : (clearDevcfg s).buscfg = s.buscfg := rfl
@[simp] theorem clearDevcfg_seq : (clearDevcfg s).seq = s.seq := rfl
@[simp] theorem clearDevcfg_desc : (clearDevcfg s).desc = s.desc := rfl
@[simp] theorem clearDevcfg_lines : (clearDevcfg s).lines = s.lines := rfl
@[simp] theorem clearDevcfg_queue : (clearDevcfg s).queue = s.queue := rfl
@[simp] theorem clearDevcfg_log : (clearDevcfg s).log = s.log := rfl
@[simp] theorem clearDevcfg_err : (clearDevcfg s).err = s.err := rfl
@[simp] theorem clearDevcfg_fault : (clearDevcfg s).fault = s.fault := rfl
@[simp] theorem clearDevcfg_refused : (clearDevcfg s).refused = s.refused := rfl
@[simp] theorem clearDevcfg_params : (clearDevcfg s).params = s.params := rfl
@[simp] theorem clearDevcfg_mem : (clearDevcfg s).mem = s.mem := rfl
@[simp] theorem clearDevcfg_ret : (clearDevcfg s).ret = s.ret := rfl
@[simp] theorem clearDevcfg_held : (clearDevcfg s).held = s.held := rfl
@[simp] theorem clearDevcfg_wire : (clearDevcfg s).wire = s.wire := rfl
@[simp] theorem clearDevcfg_oracle : (clearDevcfg s).oracle = s.oracle := rfl
@[simp] theorem clearDevcfg_inbox : (clearDevcfg s).inbox = s.inbox := rfl
@[simp] theorem clearDevcfg_others : (clearDevcfg s).others = s.others := rfl

end Sys2Proof.Machine
end

