-- ==== Sys2Proof/Laws/Call.lean ====
section
/-! SUPPORT. Calls: what `andThen`, `finish`, `forLoop`, `readField` and `requireActive` can do, said once. -/

namespace Sys2Proof.Machine

variable {α β : Type} {s t : State}

@[simp] theorem andThen_ret (a : α) (s : State) (f : α → State → Call β) :
    andThen (.ret a s) f = f a s := rfl

@[simp] theorem andThen_stop (s : State) (f : α → State → Call β) :
    andThen (.stop s) f = .stop s := rfl

@[simp] theorem finish_ret (r : α → Ret) (a : α) (s : State) :
    finish r (.ret a s) = .next (setRet (r a) s) := rfl

@[simp] theorem finish_stop (r : α → Ret) (s : State) : finish r (.stop s : Call α) = .next s := rfl

/-- `Ends P Q c`: where the call returns, `Q`; where the request has ended in it, `P`. -/
def Ends (P : State → Prop) (Q : α → State → Prop) : Call α → Prop
  | .ret a s => Q a s
  | .stop s => P s

@[simp] theorem ends_ret {P : State → Prop} {Q : α → State → Prop} (a : α) (s : State) :
    Ends P Q (.ret a s) ↔ Q a s := Iff.rfl

@[simp] theorem ends_stop {P : State → Prop} {Q : α → State → Prop} (s : State) :
    Ends P Q (.stop s : Call α) ↔ P s := Iff.rfl

/-- A call followed by another: the second's ends, from whatever the first returns. -/
theorem Ends.andThen {P : State → Prop} {Q : α → State → Prop} {R : β → State → Prop} {c : Call α}
    {f : α → State → Call β} (hc : Ends P Q c) (hf : ∀ a s, Q a s → Ends P R (f a s)) :
    Ends P R (andThen c f) := by
  cases c with
  | ret a s => exact hf a s hc
  | stop s => exact hc

/-- The same, where the two ends of the first are read into those of the whole. -/
theorem Ends.andThen' {P P' : State → Prop} {Q : α → State → Prop} {R : β → State → Prop} {c : Call α}
    {f : α → State → Call β} (hc : Ends P Q c) (hP : ∀ s, P s → P' s)
    (hf : ∀ a s, Q a s → Ends P' R (f a s)) : Ends P' R (Machine.andThen c f) := by
  cases c with
  | ret a s => exact hf a s hc
  | stop s => exact hP s hc

theorem Ends.imp {P P' : State → Prop} {Q Q' : α → State → Prop} {c : Call α} (hc : Ends P Q c)
    (hP : ∀ s, P s → P' s) (hQ : ∀ a s, Q a s → Q' a s) : Ends P' Q' c := by
  cases c with
  | ret a s => exact hQ a s hc
  | stop s => exact hP s hc

/-- A loop keeps what its body keeps, index by index. -/
theorem Ends.forLoop {P : State → Prop} {I : Nat → State → Prop} {body : Nat → State → Call Unit}
    (n : Nat) : ∀ (i : Nat) (s : State), I i s →
      (∀ j s, i ≤ j → j < i + n → I j s → Ends P (fun _ s' => I (j + 1) s') (body j s)) →
      Ends P (fun _ s' => I (i + n) s') (forLoop body n i s) := by
  induction n with
  | zero => intro i s h _; exact h
  | succ n ih =>
    intro i s h hb
    refine Ends.andThen (hb i s (Nat.le_refl i) (by omega) h) fun _ s' h' => ?_
    have := ih (i + 1) s' h' fun j s hj hj' hI => hb j s (by omega) (by omega) hI
    simpa [Nat.add_comm, Nat.add_left_comm] using this

/-- A request's next state: returned to, or ended in. -/
theorem finish_ends {P : State → Prop} {Q : α → State → Prop} {c : Call α} {r : α → Ret}
    (hc : Ends P Q c) (h : finish r c = .next t) : P t ∨ ∃ a s, Q a s ∧ t = setRet (r a) s := by
  cases c with
  | ret a s => exact .inr ⟨a, s, hc, by simpa using h.symm⟩
  | stop s => exact .inl (by simpa using (by simpa using h : s = t) ▸ hc)

/-- A request always has a next state: what ends a run ends it at the next step. -/
theorem finish_next (r : α → Ret) (c : Call α) : ∃ t, finish r c = .next t := by
  cases c <;> exact ⟨_, rfl⟩

@[simp] theorem forLoop_zero (body : Nat → State → Call Unit) (i : Nat) (s : State) :
    forLoop body 0 i s = .ret () s := rfl

theorem forLoop_succ (body : Nat → State → Call Unit) (n i : Nat) (s : State) :
    forLoop body (n + 1) i s = andThen (body i s) fun _ s' => forLoop body n (i + 1) s' := rfl

@[simp] theorem readField_some (a : α) (s : State) : readField (some a) s = .ret a s := rfl

@[simp] theorem readField_none (s : State) :
    readField (none : Option α) s = .stop (setFault .unwritten s) := rfl

/-- Reading a field changes nothing but a fault mark. -/
theorem readField_ends (f : Option α) (s : State) :
    Ends (fun t => f = none ∧ t = setFault .unwritten s) (fun a t => f = some a ∧ t = s) (readField f s) := by
  cases f <;> simp

theorem requireActive_of_active (h : s.life = .active) : requireActive s = .ret () s := by
  simp [requireActive, h]

theorem requireActive_of_not (h : s.life ≠ .active) :
    requireActive s = .stop (setFault .lifecycle s) := by
  simp [requireActive, h]

theorem requireActive_ends (s : State) :
    Ends (fun t => s.life ≠ .active ∧ t = setFault .lifecycle s) (fun _ t => s.life = .active ∧ t = s)
      (requireActive s) := by
  unfold requireActive; split <;> simp [*]

end Sys2Proof.Machine
end

