-- ==== Sys2Proof/Laws/Memory.lean ====
section
/-! SUPPORT. Host memory: read after write, and that every operation keeps the canonical form. -/

namespace Sys2Proof.Machine

/-- Only the written address reads otherwise than before. -/
theorem memByte_memSet_other (m : Memory) {a b : Nat} (h : a ≠ b) (v : Byte) :
    memByte (memSet m a v) b = memByte m b := by
  induction m with
  | nil => unfold memSet; split <;> simp [memByte, h]
  | cons p m ih =>
    obtain ⟨x, c⟩ := p
    unfold memSet
    split
    · split <;> simp [memByte, h]
    · split
      · subst x; split <;> simp [memByte, h]
      · simp only [memByte]; split
        · rfl
        · exact ih

theorem memWfAbove_mono {lo lo' : Nat} (h : lo' ≤ lo) {m : Memory} (hm : memWfAbove lo m = true) :
    memWfAbove lo' m = true := by
  cases m with
  | nil => rfl
  | cons p m =>
    obtain ⟨x, c⟩ := p
    simp only [memWfAbove, Bool.and_eq_true, decide_eq_true_eq] at hm ⊢
    exact ⟨⟨by omega, hm.1.2⟩, hm.2⟩

/-- Below its least address canonical memory reads as unlisted. -/
theorem memByte_below {m : Memory} {lo a : Nat} (hm : memWfAbove lo m = true) (h : a < lo) :
    memByte m a = unlistedByte := by
  induction m generalizing lo with
  | nil => rfl
  | cons p m ih =>
    obtain ⟨x, c⟩ := p
    simp only [memWfAbove, Bool.and_eq_true, decide_eq_true_eq] at hm
    have hx : x ≠ a := by omega
    simp only [memByte, hx, if_false]
    exact ih hm.2 (by omega)

theorem memSet_wfAbove {m : Memory} {lo a : Nat} (v : Byte) (hm : memWfAbove lo m = true) (h : lo ≤ a) :
    memWfAbove lo (memSet m a v) = true := by
  induction m generalizing lo with
  | nil => unfold memSet; split <;> simp_all [memWfAbove]
  | cons p m ih =>
    obtain ⟨x, c⟩ := p
    simp only [memWfAbove, Bool.and_eq_true, decide_eq_true_eq] at hm
    unfold memSet
    split
    · split
      · simp only [memWfAbove, Bool.and_eq_true, decide_eq_true_eq]; exact hm
      · simp only [memWfAbove, Bool.and_eq_true, decide_eq_true_eq]
        refine ⟨⟨h, by simpa using ‹¬v = unlistedByte›⟩, ⟨by omega, hm.1.2⟩, hm.2⟩
    · split
      · subst x
        split
        · exact memWfAbove_mono (by omega) hm.2
        · simp only [memWfAbove, Bool.and_eq_true, decide_eq_true_eq]
          exact ⟨⟨h, by simpa using ‹¬v = unlistedByte›⟩, hm.2⟩
      · simp only [memWfAbove, Bool.and_eq_true, decide_eq_true_eq]
        exact ⟨hm.1, ih hm.2 (by omega)⟩

/-- A store keeps the canonical form. -/
theorem memSet_wf {m : Memory} (a : Nat) (v : Byte) (hm : m.wf = true) : Memory.wf (memSet m a v) = true :=
  memSet_wfAbove v hm (Nat.zero_le a)

theorem memByte_memSet_sameAbove {m : Memory} {lo : Nat} (a : Nat) (v : Byte)
    (hm : memWfAbove lo m = true) : memByte (memSet m a v) a = v := by
  induction m generalizing lo with
  | nil =>
    unfold memSet
    split
    · simp_all [memByte]
    · simp [memByte]
  | cons p m ih =>
    obtain ⟨x, c⟩ := p
    simp only [memWfAbove, Bool.and_eq_true, decide_eq_true_eq] at hm
    unfold memSet
    split
    · split
      · rw [memByte_below (lo := x) (by simp [memWfAbove, hm.1.2, hm.2]) ‹a < x›]; exact Eq.symm ‹_›
      · simp [memByte]
    · split
      · subst x
        split
        · rw [memByte_below hm.2 (Nat.lt_succ_self a)]; exact Eq.symm ‹_›
        · simp [memByte]
      · have hx : x ≠ a := fun h => ‹¬a = x› h.symm
        simp only [memByte, hx, if_false]
        exact ih hm.2

/-- The written address reads the written byte. -/
theorem memByte_memSet_same {m : Memory} (a : Nat) (v : Byte) (hm : m.wf = true) :
    memByte (memSet m a v) a = v :=
  memByte_memSet_sameAbove a v hm

theorem memSetBytes_wf {m : Memory} (a : Nat) (bs : List Byte) (hm : m.wf = true) :
    Memory.wf (memSetBytes m a bs) = true := by
  induction bs generalizing m a with
  | nil => exact hm
  | cons b bs ih => exact ih (a + 1) (memSet_wf a b hm)

/-- Bytes outside the written range read as before. -/
theorem memByte_memSetBytes_other (m : Memory) (bs : List Byte) {a b : Nat}
    (h : b < a ∨ a + bs.length ≤ b) : memByte (memSetBytes m a bs) b = memByte m b := by
  induction bs generalizing m a with
  | nil => rfl
  | cons v bs ih =>
    simp only [List.length_cons] at h
    rw [memSetBytes, ih (memSet m a v) (by omega), memByte_memSet_other m (by omega)]

/-- Bytes inside the written range read what was written. -/
theorem memByte_memSetBytes_same {m : Memory} (bs : List Byte) (hm : m.wf = true) {a i : Nat}
    (h : i < bs.length) : memByte (memSetBytes m a bs) (a + i) = bs[i] := by
  induction bs generalizing m a i with
  | nil => simp at h
  | cons v bs ih =>
    cases i with
    | zero =>
      rw [memSetBytes, memByte_memSetBytes_other _ _ (.inl (by omega)), Nat.add_zero,
        memByte_memSet_same a v hm]
      rfl
    | succ i =>
      have hi : i < bs.length := by simpa using h
      have := ih (m := memSet m a v) (memSet_wf a v hm) (a := a + 1) hi
      simp only [memSetBytes, List.getElem_cons_succ]
      rw [← this]; congr 1; omega

@[simp] theorem memBytes_length (m : Memory) (a n : Nat) : (memBytes m a n).length = n := by
  induction n generalizing a with
  | zero => rfl
  | succ n ih => simp [memBytes, ih]

theorem memBytes_getElem (m : Memory) (a n i : Nat) (h : i < (memBytes m a n).length) :
    (memBytes m a n)[i] = memByte m (a + i) := by
  induction n generalizing a i with
  | zero => simp [memBytes] at h
  | succ n ih =>
    cases i with
    | zero => rfl
    | succ i =>
      simp only [memBytes, List.getElem_cons_succ]
      rw [ih (a + 1) i (by simpa [memBytes] using h)]
      congr 1; omega

/-- Reading a range is reading its bytes, so memories that agree on it read alike. -/
theorem memBytes_congr {m m' : Memory} {a n : Nat}
    (h : ∀ i, i < n → memByte m (a + i) = memByte m' (a + i)) : memBytes m a n = memBytes m' a n := by
  induction n generalizing a with
  | zero => rfl
  | succ n ih =>
    simp only [memBytes]
    rw [show memByte m a = memByte m' a from h 0 (by omega), ih fun i hi => ?_]
    have := h (i + 1) (by omega)
    rwa [← Nat.add_assoc, Nat.add_right_comm] at this

/-- MemRead: its bytes, or F_BOUNDS (R12). -/
theorem memRead_ends (b : Buf) (off n : Nat) (s : State) :
    Ends (fun t => b.len < off + n ∧ t = setFault .bounds s)
      (fun v t => off + n ≤ b.len ∧ v = memBytes s.mem (b.base + off) n ∧ t = s) (memRead b off n s) := by
  unfold memRead
  split
  · simp [*]
  · simp only [ends_stop, and_true]; omega

theorem memRead_in {b : Buf} {off n : Nat} (h : off + n ≤ b.len) (s : State) :
    memRead b off n s = .ret (memBytes s.mem (b.base + off) n) s := by
  simp [memRead, h]

/-- MemWrite: its bytes stored, or F_BOUNDS (R12). -/
theorem memWrite_ends (b : Buf) (off : Nat) (v : List Byte) (s : State) :
    Ends (fun t => b.len < off + v.length ∧ t = setFault .bounds s)
      (fun _ t => off + v.length ≤ b.len ∧ t = { s with mem := memSetBytes s.mem (b.base + off) v })
      (memWrite b off v s) := by
  unfold memWrite
  split
  · simp [*]
  · simp only [ends_stop, and_true]; omega

theorem memWrite_in {b : Buf} {off : Nat} {v : List Byte} (h : off + v.length ≤ b.len) (s : State) :
    memWrite b off v s = .ret () { s with mem := memSetBytes s.mem (b.base + off) v } := by
  simp [memWrite, h]

end Sys2Proof.Machine
end

