-- ==== Sys2Proof/Laws/Time.lean ====
section
/-! SUPPORT. Other threads: everything the passing of time in a request can do, said once (60_exceptions.md R276,
20_memory.md R61). -/

namespace Sys2Proof.Machine

/-- From `s` to `u` the actions `pre` of other threads came: writes outside the buffers held. Nothing but memory
and the list of coming actions changes. -/
structure Came (pre : List Event) (s u : State) : Prop where
  frame : u = { s with mem := u.mem, others := u.others }
  order : s.others.map Arrival.event = pre ++ u.others.map Arrival.event
  writes : ∀ e ∈ pre, ∃ x bs, e = .hostWrite x bs ∧ touchesHeld x bs.length s = false
  outside : ∀ a, (∀ x bs, .hostWrite x bs ∈ pre → a < x ∨ x + bs.length ≤ a) →
    memByte u.mem a = memByte s.mem a
  quiet : pre = [] → u.mem = s.mem
  wf : s.mem.wf = true → u.mem.wf = true

/-- Time passed from `s` to `u`. -/
def TimePassed (s u : State) : Prop := ∃ pre, Came pre s u

theorem Came.refl (s : State) : Came [] s s := ⟨rfl, rfl, by simp, fun _ _ => rfl, fun _ => rfl, id⟩

theorem Came.trans {p q : List Event} {s u v : State} (h : Came p s u) (h' : Came q u v) :
    Came (p ++ q) s v where
  frame := by rw [h'.frame, h.frame]
  order := by rw [h.order, h'.order, List.append_assoc]
  writes := by
    intro e he
    rcases List.mem_append.mp he with he | he
    · exact h.writes e he
    · obtain ⟨x, bs, e, ht⟩ := h'.writes e he
      exact ⟨x, bs, e, by rw [h.frame] at ht; exact ht⟩
  outside := fun a ha =>
    (h'.outside a fun x bs m => ha x bs (List.mem_append_right _ m)).trans
      (h.outside a fun x bs m => ha x bs (List.mem_append_left _ m))
  quiet := fun e => by
    rw [List.append_eq_nil_iff] at e
    exact (h'.quiet e.2).trans (h.quiet e.1)
  wf := fun hw => h'.wf (h.wf hw)

theorem TimePassed.refl (s : State) : TimePassed s s := ⟨_, Came.refl s⟩

theorem TimePassed.trans {s u v : State} : TimePassed s u → TimePassed u v → TimePassed s v
  | ⟨_, h⟩, ⟨_, h'⟩ => ⟨_, h.trans h'⟩

theorem TimePassed.eq {s u : State} (h : TimePassed s u) : u = { s with mem := u.mem, others := u.others } :=
  h.elim fun _ h => h.frame

/-- A write that touches no held buffer leaves every byte of a held buffer alone. -/
theorem outside_of_untouched {s : State} {x n a : Nat} {b : Buf} (h : touchesHeld x n s = false)
    (hb : b ∈ s.held) (ha : b.base ≤ a) (ha' : a < b.base + b.len) : a < x ∨ x + n ≤ a := by
  have hs : sharesByte ⟨x, n⟩ b = false := by simpa using List.any_eq_false.mp h b hb
  have : ¬ max x b.base < min (x + n) (b.base + b.len) := of_decide_eq_false hs
  omega

/-- The bytes of a held buffer are as they were, however much time passed. -/
theorem TimePassed.held {s u : State} (h : TimePassed s u) {b : Buf} (hb : b ∈ s.held) {a : Nat}
    (ha : b.base ≤ a) (ha' : a < b.base + b.len) : memByte u.mem a = memByte s.mem a := by
  obtain ⟨pre, h⟩ := h
  refine h.outside a fun x bs m => ?_
  obtain ⟨x', bs', e, ht⟩ := h.writes _ m
  cases e
  exact outside_of_untouched ht hb ha ha'

theorem TimePassed.memBytes_held {s u : State} (h : TimePassed s u) {b : Buf} (hb : b ∈ s.held) {off n : Nat}
    (hn : off + n ≤ b.len) : memBytes u.mem (b.base + off) n = memBytes s.mem (b.base + off) n :=
  memBytes_congr fun i hi => h.held hb (by omega) (by omega)

/-- How points of time pass: they pass, or after fewer of them an action is refused. -/
def Passage.Is (n : Nat) (s : State) : Passage → Prop
  | .through u => TimePassed s u
  | .cut k r => k < n ∧ ∃ u, TimePassed s u ∧ r = setRefused .concurrent u

theorem passPoints_is (as : List Arrival) :
    ∀ (n : Nat) (s : State), (passPoints as n s).Is n { s with others := as } := by
  induction as with
  | nil => exact fun n s => TimePassed.refl _
  | cons a as ih =>
    intro n s
    unfold passPoints
    split
    · exact ⟨[], rfl, rfl, by simp, fun _ _ => rfl, fun _ => rfl, id⟩
    · have hlt : a.wait < n := by omega
      have now : TimePassed { s with others := a :: as } { s with others := ⟨0, a.event⟩ :: as } :=
        ⟨[], rfl, rfl, by simp, fun _ _ => rfl, fun _ => rfl, id⟩
      split
      · exact ⟨hlt, _, now, rfl⟩
      · rename_i x bs he
        split
        · exact ⟨hlt, _, now, rfl⟩
        · rename_i ht
          have step : TimePassed { s with others := a :: as } { hostWrite x bs s with others := as } := by
            refine ⟨[.hostWrite x bs], rfl, by rw [← he]; rfl, ?_, ?_, by simp, fun hw => memSetBytes_wf x bs hw⟩
            · intro e h
              rw [List.mem_singleton] at h
              exact ⟨x, bs, h, Bool.eq_false_iff.mpr ht⟩
            · exact fun b hb => memByte_memSetBytes_other _ _ (hb x bs (List.mem_singleton.mpr rfl))
          have := ih (n - a.wait) (hostWrite x bs s)
          cases hp : passPoints as (n - a.wait) (hostWrite x bs s) with
          | through u => rw [hp] at this; exact step.trans this
          | cut k r =>
            rw [hp] at this
            obtain ⟨hk, u, hu, rfl⟩ := this
            exact ⟨by omega, u, step.trans hu, rfl⟩

/-- Everything the passing of time can do. -/
theorem passTime_is (n : Nat) (s : State) : (passTime n s).Is n s := by
  unfold passTime
  split
  · exact TimePassed.refl s
  · exact passPoints_is s.others n s

theorem passPoints_none {s : State} (h : s.others = []) (n : Nat) : passPoints s.others n s = .through s := by
  cases s; subst h; rfl

/-- Without another thread, time passes. -/
theorem passTime_quiet {s : State} (h : s.others = [] ∨ s.seq.req = .idle) (n : Nat) :
    passTime n s = .through s := by
  unfold passTime
  split
  · rfl
  · exact passPoints_none (h.resolve_right ‹_›) n

/-- Another thread's action that is to be refused and comes within `n` points ends the request there. -/
theorem passTime_cut {s : State} {a : Arrival} {as : List Arrival} {n : Nat} (ho : s.others = a :: as)
    (hs : s.seq.req ≠ .idle) (hn : a.wait < n)
    (hr : (∃ p, a.event = .packet p) ∨ ∃ x bs, a.event = .hostWrite x bs ∧ touchesHeld x bs.length s = true) :
    passTime n s = .cut a.wait (refuseArrival a.event as s) := by
  unfold passTime
  rw [if_neg hs, ho, passPoints, if_neg (by omega)]
  rcases hr with ⟨p, h⟩ | ⟨x, bs, h, ht⟩
  · rw [h]
  · rw [h]; dsimp only; rw [if_pos ht]

theorem passPoint_ends (s : State) :
    Ends (fun r => ∃ u, TimePassed s u ∧ r = setRefused .concurrent u) (fun _ u => TimePassed s u)
      (passPoint s) := by
  have h := passTime_is 1 s
  unfold passPoint
  cases hp : passTime 1 s with
  | through u => rw [hp] at h; exact h
  | cut k r => rw [hp] at h; exact h.2

theorem passPoint_quiet {s : State} (h : s.others = [] ∨ s.seq.req = .idle) : passPoint s = .ret () s := by
  rw [passPoint, passTime_quiet h]

end Sys2Proof.Machine
end

