-- ==== Sys2Proof/Laws/Line.lean ====
section
/-! SUPPORT. The line sequencer: what driving beats changes, and everything a transmit can do, said once. -/

namespace Sys2Proof.Machine

/-! ### The answer -/

/-- `o` is what is left of the answers of `s` after a transmit's was taken. -/
def TxDraw (s : State) (o : Oracle) : Prop := o = { s.oracle with tx := o.tx, draws := o.draws }

/-- An answer comes from the state's own list or is free; nothing but `oracle` changes. -/
theorem drawTx_cases (s : State) :
    ∃ a o, drawTx s = (pickTx a s.params, { s with oracle := o }) ∧ TxDraw s o ∧
      ∀ b bs, s.oracle.tx = b :: bs → a = b ∧ o = { s.oracle with tx := bs } := by
  unfold drawTx
  split
  · exact ⟨_, _, rfl, rfl, fun b bs h => by simp_all⟩
  · exact ⟨_, _, rfl, rfl, fun b bs h => by simp_all⟩

theorem drawTx_eq {s s' : State} {a : TxAnswer} (h : drawTx s = (a, s')) : s' = { s with oracle := s'.oracle } := by
  unfold drawTx at h
  split at h <;> (obtain ⟨-, rfl⟩ := h; rfl)

/-- The answer depends on the answers to come and the parameters alone. -/
theorem drawTx_congr {s s' u : State} {a : TxAnswer} (h : drawTx s = (a, s')) (ho : u.oracle = s.oracle)
    (hp : u.params = s.params) : drawTx u = (a, { u with oracle := s'.oracle }) := by
  unfold drawTx at h ⊢
  rw [ho, hp]
  split at h <;> (obtain ⟨rfl, rfl⟩ := h; rfl)

theorem drawTx_cons {s : State} {a : TxAnswer} {as : List TxAnswer} (h : s.oracle.tx = a :: as) :
    drawTx s = (pickTx a s.params, { s with oracle := { s.oracle with tx := as } }) := by
  simp [drawTx, h]

/-- Status 0 is in every STATUS set of well-formed parameters, and is read as itself. -/
theorem pickStatus_zero {p : Params} (h : paramsOk p = true) : pickStatus 0 p.statuses = 0 := by
  simp only [paramsOk, Bool.and_eq_true] at h
  have h0 := h.1.1.1.2
  unfold statusMem at h0
  unfold pickStatus
  split <;> simp_all

/-! ### Driving beats -/

/-- Driving beats changes the phase, its bit, the lines and the wire. -/
theorem driveBeats_eq (m : Multiline) (dc : DevCfg) (t : Desc) (bs : List Beat) (s : State) :
    ∃ ph b l, driveBeats m dc t bs s =
      { s with seq := ⟨s.seq.req, ph, b⟩, lines := l, wire := s.wire ++ bs } ∧
      (bs ≠ [] → l.sck = idleSck dc.mode) ∧ (bs = [] → l = s.lines) := by
  have key : ∀ (bs : List Beat) (s : State), ∃ ph b l, bs.foldl (driveBeat m dc t) s =
      { s with seq := ⟨s.seq.req, ph, b⟩, lines := l } ∧
      (bs ≠ [] → l.sck = idleSck dc.mode) ∧ (bs = [] → l = s.lines) := by
    intro bs
    induction bs with
    | nil => intro s; exact ⟨s.seq.phase, s.seq.bit, s.lines, rfl, by simp, by simp⟩
    | cons x bs ih =>
      intro s
      obtain ⟨ph, b, l, h, h1, h2⟩ := ih (driveBeat m dc t s x)
      refine ⟨ph, b, l, ?_, fun _ => ?_, by simp⟩
      · rw [List.foldl_cons, h]
        have hr : (driveBeat m dc t s x).seq.req = s.seq.req := by
          unfold driveBeat; simp only; split <;> rfl
        rw [hr]; rfl
      · by_cases hb : bs = []
        · rw [h2 hb]; rfl
        · exact h1 hb
  obtain ⟨ph, b, l, h, h1, h2⟩ := key bs s
  exact ⟨ph, b, l, by rw [driveBeats, h], h1, h2⟩

/-- A transmit that ends leaves what `afterFrame` says. -/
theorem endFrame_driveBeats (m : Multiline) (dc : DevCfg) (t : Desc) (bs : List Beat) (st k : Nat)
    (o : Oracle) (s : State) :
    endFrame dc t st k (driveBeats m dc t bs { startFrame dc t s with oracle := o }) =
      { s with
        log := s.log ++ [⟨t, st, k⟩]
        wire := s.wire ++ bs
        queue := []
        desc := none
        seq := ⟨s.seq.req, none, 0⟩
        lines := ⟨idleSck dc.mode, ⟨.z, .z, .z, .z⟩⟩
        oracle := o } := by
  obtain ⟨ph, b, l, h, -⟩ := driveBeats_eq m dc t bs { startFrame dc t s with oracle := o }
  rw [h]; rfl

/-- The frame is on the lines, some of its beats driven. -/
def OnLines (dc : DevCfg) (t : Desc) (s u : State) : Prop :=
  ∃ j ph b l o s1, TxDraw s o ∧ TimePassed s s1 ∧ u = hungFrame dc t j ph b l o s1 ∧
    (l.sck = idleSck dc.mode ∨ l = s.lines)

/-- The frame was answered `st`, as `afterFrame` says. -/
def OffLines (dc : DevCfg) (t : Desc) (st : Nat) (s u : State) : Prop :=
  ∃ k o s1, TxDraw s o ∧ TimePassed s s1 ∧
    u = afterFrame dc t st (beatsDriven st k (serialize s.params.multiline dc t).length) o s1

/-- Time that passes from a state with the same memory and the same other threads passes from `s`. -/
theorem TimePassed.over {s s' u : State} (h : TimePassed s' u) (hm : s'.mem = s.mem)
    (ho : s'.others = s.others) (hh : s'.held = s.held) :
    TimePassed s { s with mem := u.mem, others := u.others } := by
  obtain ⟨pre, h⟩ := h
  refine ⟨pre, rfl, by rw [← ho]; exact h.order, ?_, fun a ha => by rw [← hm]; exact h.outside a ha,
    fun e => by rw [← hm]; exact h.quiet e, fun hw => h.wf (by rw [hm]; exact hw)⟩
  intro e he
  obtain ⟨x, bs, e, ht⟩ := h.writes e he
  refine ⟨x, bs, e, ?_⟩
  unfold touchesHeld at ht ⊢
  rw [← hh]; exact ht

/-- The frame goes to the lines: it is answered, hangs there, or is cut there by another thread. -/
theorem sendFrame_ends (dc : DevCfg) (t : Desc) (s : State) :
    Ends (fun u => OnLines dc t s u ∨ ∃ v, OnLines dc t s v ∧ u = setRefused .concurrent v)
      (fun st u => OffLines dc t st s u) (sendFrame dc t s) := by
  obtain ⟨a, o, h, ho, -⟩ := drawTx_cases (startFrame dc t s)
  have sck : ∀ {l : Lines} {bs : List Beat}, (bs ≠ [] → l.sck = idleSck dc.mode) → (bs = [] → l = s.lines) →
      l.sck = idleSck dc.mode ∨ l = s.lines := fun {l bs} h1 h2 => by
    by_cases hb : bs = []
    · exact .inr (h2 hb)
    · exact .inl (h1 hb)
  unfold sendFrame
  rw [h]
  dsimp only
  have hp := passTime_is (beatsUnder (pickTx a (startFrame dc t s).params)
    (serialize s.params.multiline dc t).length + 1) { startFrame dc t s with oracle := o }
  revert hp
  generalize passTime _ _ = p
  intro hp
  cases p with
  | cut k r =>
    obtain ⟨-, u, hu, rfl⟩ := hp
    obtain ⟨ph, b, l, hd, h1, h2⟩ := driveBeats_eq s.params.multiline dc t
      ((serialize s.params.multiline dc t).take k) (setRefused .concurrent u)
    refine .inr ⟨_, ⟨k, ph, b, l, o, _, ho, hu.over rfl rfl rfl, rfl, ?_⟩, ?_⟩
    · refine sck h1 fun hb => (h2 hb).trans ?_
      rw [hu.eq]; rfl
    · rw [hd, hu.eq]; rfl
  | through u =>
    have hu : TimePassed { startFrame dc t s with oracle := o } u := hp
    generalize pickTx a _ = a
    cases a with
    | status st k =>
      refine ⟨k, o, _, ho, hu.over rfl rfl rfl, ?_⟩
      rw [hu.eq]
      exact endFrame_driveBeats _ dc t _ st _ o { s with mem := u.mem, others := u.others }
    | hang j =>
      obtain ⟨ph, b, l, hd, h1, h2⟩ := driveBeats_eq s.params.multiline dc t
        ((serialize s.params.multiline dc t).take (min j (serialize s.params.multiline dc t).length)) u
      refine .inl ⟨min j (serialize s.params.multiline dc t).length, ph, b, l, o, _, ho, hu.over rfl rfl rfl, ?_, ?_⟩
      · exact (congrArg (setRet .nothing) hd).trans (by rw [hu.eq]; rfl)
      · refine sck h1 fun hb => (h2 hb).trans ?_
        rw [hu.eq]; rfl

/-- Without another thread, a frame that is answered a status ends as `afterFrame` says. -/
theorem sendFrame_of {dc : DevCfg} {t : Desc} {s s' : State} {st k : Nat}
    (hq : s.others = [] ∨ s.seq.req = .idle) (h : drawTx s = (.status st k, s')) :
    sendFrame dc t s =
      .ret st (afterFrame dc t st (beatsDriven st k (serialize s.params.multiline dc t).length) s'.oracle s) := by
  unfold sendFrame
  rw [drawTx_congr h (u := startFrame dc t s) rfl rfl]
  dsimp only
  rw [passTime_quiet (s := { startFrame dc t s with oracle := s'.oracle }) hq]
  exact congrArg (Call.ret _) (endFrame_driveBeats _ dc t _ st _ s'.oracle s)

/-- Without another thread, a frame that is answered HANG stays as `hungFrame` says. -/
theorem sendFrame_hang_of {dc : DevCfg} {t : Desc} {s s' : State} {j : Nat}
    (hq : s.others = [] ∨ s.seq.req = .idle) (h : drawTx s = (.hang j, s')) :
    ∃ ph b l, sendFrame dc t s =
      .stop (hungFrame dc t (min j (serialize s.params.multiline dc t).length) ph b l s'.oracle s) := by
  unfold sendFrame
  rw [drawTx_congr h (u := startFrame dc t s) rfl rfl]
  dsimp only
  rw [passTime_quiet (s := { startFrame dc t s with oracle := s'.oracle }) hq]
  obtain ⟨ph, b, l, hd, -⟩ := driveBeats_eq s.params.multiline dc t
    ((serialize s.params.multiline dc t).take (min j (serialize s.params.multiline dc t).length))
    { startFrame dc t s with oracle := s'.oracle }
  exact ⟨ph, b, l, congrArg (fun v => Call.stop (setRet .nothing v)) hd⟩

/-! ### Everything a transmit can do (R150) -/

/-- Why a transmit does not reach the lines. -/
def TransmitStops (t : Desc) (s u : State) : Prop :=
  (s.dev ≠ .attached ∧ u = setFault .lifecycle s) ∨
  ((s.devHandle = none ∨ s.devcfg = none ∨ s.buscfg = none) ∧ u = setFault .unwritten s) ∨
  (∃ dc, s.devcfg = some dc ∧ t.wf s.params.multiline dc = false ∧ u = setRefused .descriptor s)

/-- The frame reached the lines: the conditions it met. -/
def TransmitSends (t : Desc) (dc : DevCfg) (s : State) : Prop :=
  s.dev = .attached ∧ s.devHandle.isSome = true ∧ s.devcfg = some dc ∧
    t.wf s.params.multiline dc = true ∧ ∃ bc, s.buscfg = some bc ∧ t.tx.length ≤ bc.maxTransferSize

/-- The frame went to the lines and was answered `st`. -/
def FrameSent (t : Desc) (st : Nat) (s u : State) : Prop :=
  ∃ dc, TransmitSends t dc s ∧ OffLines dc t st s u

/-- The frame hangs on the lines. -/
def FrameHangs (t : Desc) (s u : State) : Prop :=
  ∃ dc, TransmitSends t dc s ∧ OnLines dc t s u

/-- Another thread's action was refused while the frame was on the lines, or in a transmit too long for the bus. -/
def FrameCut (t : Desc) (s u : State) : Prop :=
  ∃ v, (FrameHangs t s v ∨ TimePassed s v) ∧ u = setRefused .concurrent v

/-- The payload is longer than the bus transfers: ST_TOO_LONG, and nothing done as the time passes (R151). -/
def FrameTooLong (t : Desc) (st : Nat) (s u : State) : Prop :=
  TimePassed s u ∧ st = s.params.stTooLong ∧ ∃ bc, s.buscfg = some bc ∧ bc.maxTransferSize < t.tx.length

/-- The ends of the checks and the frame. -/
theorem checkedSend_ends (t : Desc) (s : State) (hd : s.dev = .attached) (hh : s.devHandle.isSome = true) :
    Ends (fun u => TransmitStops t s u ∨ FrameHangs t s u ∨ FrameCut t s u)
      (fun st u => FrameTooLong t st s u ∨ FrameSent t st s u) (checkedSend t s) := by
  unfold checkedSend
  cases hdc : s.devcfg with
  | none => simp [TransmitStops, hdc]
  | some dc =>
    simp only [readField_some, andThen_ret]
    cases hwf : t.wf s.params.multiline dc with
    | false => simp [TransmitStops, hdc, hwf]
    | true =>
      simp only [if_true]
      cases hbc : s.buscfg with
      | none => simp [TransmitStops, hbc]
      | some bc =>
        simp only [readField_some, andThen_ret]
        split
        · refine (passPoint_ends s).andThen' ?_ ?_
          · rintro r ⟨u, hu, rfl⟩
            exact .inr (.inr ⟨u, .inr hu, rfl⟩)
          · exact fun _ u hu => .inl ⟨hu, by rw [hu.eq], bc, hbc, ‹_›⟩
        · have hs : TransmitSends t dc s := ⟨hd, hh, hdc, hwf, bc, hbc, by omega⟩
          refine (sendFrame_ends dc t s).imp ?_ ?_
          · rintro u (h | ⟨v, h, rfl⟩)
            · exact .inr (.inl ⟨dc, hs, h⟩)
            · exact .inr (.inr ⟨v, .inl ⟨dc, hs, h⟩, rfl⟩)
          · exact fun st u h => .inr ⟨dc, hs, h⟩

theorem attachedHandle_ends (s : State) :
    Ends (fun u => (s.dev ≠ .attached ∧ u = setFault .lifecycle s) ∨
        (s.dev = .attached ∧ s.devHandle = none ∧ u = setFault .unwritten s))
      (fun h u => s.dev = .attached ∧ s.devHandle = some h ∧ u = s) (attachedHandle s) := by
  unfold attachedHandle
  split
  · cases h : s.devHandle <;> simp [*]
  · simp [*]

theorem attachedHandle_of {s : State} {h : Nat} (hd : s.dev = .attached) (hh : s.devHandle = some h) :
    attachedHandle s = .ret h s := by
  simp [attachedHandle, hd, hh]

/-- With its device attached, `transmit` is the checks and the frame. -/
theorem transmit_of {s : State} {h : Nat} (hd : s.dev = .attached) (hh : s.devHandle = some h) (t : Desc) :
    transmit t s = checkedSend t s := by
  simp [transmit, pollingTransmit, attachedHandle_of hd hh]

theorem pollingTransmit_of {s : State} {h : Nat} (hd : s.dev = .attached) (hh : s.devHandle = some h)
    (t : Desc) : pollingTransmit h t s = checkedSend t s := by
  simp [pollingTransmit, attachedHandle_of hd hh]

/-- Everything `transmit` can do. -/
theorem transmit_ends (t : Desc) (s : State) :
    Ends (fun u => TransmitStops t s u ∨ FrameHangs t s u ∨ FrameCut t s u)
      (fun st u => FrameTooLong t st s u ∨ FrameSent t st s u) (transmit t s) := by
  by_cases hd : s.dev = .attached
  · cases hh : s.devHandle with
    | none => simp [transmit, attachedHandle, hd, hh, TransmitStops]
    | some h =>
      rw [transmit_of hd hh]
      exact checkedSend_ends t s hd (by simp [hh])
  · simp [transmit, attachedHandle, hd, TransmitStops]

/-- Everything POLLING_TRANSMIT can do. -/
theorem pollingTransmit_ends (h : Nat) (t : Desc) (s : State) :
    Ends (fun u => (s.devHandle ≠ some h ∧ u = setFault .lifecycle s) ∨ TransmitStops t s u ∨
        FrameHangs t s u ∨ FrameCut t s u)
      (fun st u => FrameTooLong t st s u ∨ FrameSent t st s u) (pollingTransmit h t s) := by
  by_cases hd : s.dev = .attached
  · cases hh : s.devHandle with
    | none => simp [pollingTransmit, attachedHandle, hd, hh, TransmitStops]
    | some h' =>
      by_cases e : h = h'
      · subst e
        rw [pollingTransmit_of hd hh]
        exact (checkedSend_ends t s hd (by simp [hh])).imp (fun _ h => .inr h) fun _ _ h => h
      · have e' : ¬h' = h := fun x => e x.symm
        simp [pollingTransmit, attachedHandle, hd, hh, e, e']
  · simp [pollingTransmit, attachedHandle, hd, TransmitStops]

end Sys2Proof.Machine
end

