-- ==== Sys2Proof/Laws/Bus.lean ====
section
/-! SUPPORT. The bus manager: the answers of the bus primitive, and everything each primitive can do, said once. -/

namespace Sys2Proof.Machine

/-! ### The answers depend on the answer lists and the parameters alone, and change the lists alone -/

theorem drawBusInit_eq {s s' : State} {st : Nat} (h : drawBusInit s = (st, s')) :
    s' = { s with oracle := s'.oracle } := by
  unfold drawBusInit at h
  split at h <;> (obtain ⟨-, rfl⟩ := h; rfl)

theorem drawBusInit_congr {s s' u : State} {st : Nat} (h : drawBusInit s = (st, s'))
    (ho : u.oracle = s.oracle) (hp : u.params = s.params) :
    drawBusInit u = (st, { u with oracle := s'.oracle }) := by
  unfold drawBusInit at h ⊢
  rw [ho, hp]
  split at h <;> (obtain ⟨rfl, rfl⟩ := h; rfl)

theorem drawAttach_eq {s s' : State} {st h : Nat} (hd : drawAttach s = (st, h, s')) :
    s' = { s with oracle := s'.oracle } := by
  unfold drawAttach at hd
  split at hd <;> (obtain ⟨-, -, rfl⟩ := hd; rfl)

theorem drawAttach_congr {s s' u : State} {st h : Nat} (hd : drawAttach s = (st, h, s'))
    (ho : u.oracle = s.oracle) (hp : u.params = s.params) :
    drawAttach u = (st, h, { u with oracle := s'.oracle }) := by
  unfold drawAttach at hd ⊢
  rw [ho, hp]
  split at hd <;> (obtain ⟨rfl, rfl, rfl⟩ := hd; rfl)

theorem drawDetach_eq {s s' : State} {st : Nat} (h : drawDetach s = (st, s')) :
    s' = { s with oracle := s'.oracle } := by
  unfold drawDetach at h
  split at h <;> (obtain ⟨-, rfl⟩ := h; rfl)

theorem drawDetach_congr {s s' u : State} {st : Nat} (h : drawDetach s = (st, s'))
    (ho : u.oracle = s.oracle) (hp : u.params = s.params) :
    drawDetach u = (st, { u with oracle := s'.oracle }) := by
  unfold drawDetach at h ⊢
  rw [ho, hp]
  split at h <;> (obtain ⟨rfl, rfl⟩ := h; rfl)

theorem drawBusFree_eq {s s' : State} {st : Nat} (h : drawBusFree s = (st, s')) :
    s' = { s with oracle := s'.oracle } := by
  unfold drawBusFree at h
  split at h <;> (obtain ⟨-, rfl⟩ := h; rfl)

theorem drawBusFree_congr {s s' u : State} {st : Nat} (h : drawBusFree s = (st, s'))
    (ho : u.oracle = s.oracle) (hp : u.params = s.params) :
    drawBusFree u = (st, { u with oracle := s'.oracle }) := by
  unfold drawBusFree at h ⊢
  rw [ho, hp]
  split at h <;> (obtain ⟨rfl, rfl⟩ := h; rfl)

/-! ### The primitives -/

/-- Everything BUS_INITIALIZE can do. -/
theorem busInitialize_ends (bc : BusReq) (s : State) :
    Ends (fun u => s.bus ≠ .free ∧ u = setFault .lifecycle s)
      (fun st u => s.bus = .free ∧ ∃ s', drawBusInit s = (st, s') ∧
        u = if st = 0 then writeBuscfg bc s' else s')
      (busInitialize bc s) := by
  unfold busInitialize
  split
  · exact ⟨‹_›, _, rfl, rfl⟩
  · exact ⟨‹_›, rfl⟩

/-- Everything DEVICE_ATTACH can do. -/
theorem deviceAttach_ends (dc : DevCfg) (s : State) :
    Ends (fun u => (s.bus ≠ .ready ∨ s.dev ≠ .detached) ∧ u = setFault .lifecycle s)
      (fun r u => s.bus = .ready ∧ s.dev = .detached ∧ ∃ st h s', drawAttach s = (st, h, s') ∧
        ((st = 0 ∧ r = (0, some h) ∧ u = writeDevcfg dc s') ∨ (st ≠ 0 ∧ r = (st, none) ∧ u = s')))
      (deviceAttach dc s) := by
  unfold deviceAttach
  split
  · rename_i hc
    rcases e : drawAttach s with ⟨st, h, s'⟩
    by_cases h0 : st = 0
    · simp only [h0, if_true, ends_ret]
      exact ⟨hc.1, hc.2, st, h, s', by rw [h0], .inl ⟨h0, rfl, rfl⟩⟩
    · simp only [h0, if_false, ends_ret]
      exact ⟨hc.1, hc.2, st, h, s', rfl, .inr ⟨h0, rfl, rfl⟩⟩
  · exact ⟨by rename_i hc; simpa only [not_and_or] using hc, rfl⟩

/-- Everything DEVICE_DETACH can do. -/
theorem deviceDetach_ends (h : Nat) (s : State) :
    Ends (fun u => (u = setFault .lifecycle s ∧ (s.dev ≠ .attached ∨ s.devHandle ≠ some h)) ∨
        (s.dev = .attached ∧ s.devHandle = none ∧ u = setFault .unwritten s))
      (fun _ u => s.dev = .attached ∧ s.devHandle = some h ∧ ∃ st s', drawDetach s = (st, s') ∧
        u = clearDevcfg s')
      (deviceDetach h s) := by
  refine (attachedHandle_ends s).andThen' ?_ ?_
  · rintro u (⟨hd, rfl⟩ | hu)
    · exact .inl ⟨rfl, .inl hd⟩
    · exact .inr hu
  · rintro h' u ⟨hd, hh, rfl⟩
    split
    · subst h'
      exact ⟨hd, hh, _, _, rfl, rfl⟩
    · refine .inl ⟨rfl, .inr fun e => ?_⟩
      rw [hh, Option.some.injEq] at e
      exact absurd e.symm ‹_›

/-- Everything BUS_FREE can do. -/
theorem busFree_ends (s : State) :
    Ends (fun u => (s.bus ≠ .ready ∨ s.dev ≠ .detached) ∧ u = setFault .lifecycle s)
      (fun _ u => s.bus = .ready ∧ s.dev = .detached ∧ ∃ st s', drawBusFree s = (st, s') ∧
        u = clearBuscfg s')
      (busFree s) := by
  unfold busFree
  split
  · rename_i hc
    exact ⟨hc.1, hc.2, _, _, rfl, rfl⟩
  · exact ⟨by rename_i hc; simpa only [not_and_or] using hc, rfl⟩

theorem busInitialize_of {s s' : State} {st : Nat} (bc : BusReq) (hb : s.bus = .free)
    (h : drawBusInit s = (st, s')) :
    busInitialize bc s = .ret st (if st = 0 then writeBuscfg bc s' else s') := by
  simp only [busInitialize, hb, if_true, h]

theorem deviceAttach_of {s s' : State} {st h : Nat} (dc : DevCfg) (hb : s.bus = .ready)
    (hd : s.dev = .detached) (e : drawAttach s = (st, h, s')) :
    deviceAttach dc s = if st = 0 then .ret (0, some h) (writeDevcfg dc s') else .ret (st, none) s' := by
  unfold deviceAttach
  rw [if_pos ⟨hb, hd⟩, e]

theorem deviceDetach_of {s s' : State} {h st : Nat} (hd : s.dev = .attached) (hh : s.devHandle = some h)
    (e : drawDetach s = (st, s')) : deviceDetach h s = .ret () (clearDevcfg s') := by
  simp only [deviceDetach, attachedHandle_of hd hh, andThen_ret, if_true, e]

theorem busFree_of {s s' : State} {st : Nat} (hb : s.bus = .ready) (hd : s.dev = .detached)
    (e : drawBusFree s = (st, s')) : busFree s = .ret () (clearBuscfg s') := by
  unfold busFree
  rw [if_pos ⟨hb, hd⟩, e]

/-! ### INIT's checks -/

theorem fourPins_length {pins : List Nat} : (fourPins pins).isSome = true ↔ pins.length = 4 := by
  unfold fourPins
  split
  · simp
  · rename_i h
    refine ⟨fun h => by simp at h, fun hl => ?_⟩
    match pins, hl with
    | [a, b, c, d], _ => exact absurd rfl (h a b c d)

/-- Everything INIT's checks can do: none touches the bus. -/
theorem initCheck_ends (sck : Nat) (pins : List Nat) (baud : Nat) (pol ph : Option Nat) (s : State) :
    Ends (fun u => (∃ c, c ≠ .ok ∧ u = raise c .initRequest none none s) ∨ u = setRefused .param s)
      (fun a u => u = s ∧ 0 < a.baudrate ∧ a.cpol ≤ 1 ∧ a.cpha ≤ 1)
      (initCheck sck pins baud pol ph s) := by
  unfold initCheck
  dsimp only
  split
  · exact .inl ⟨_, by decide, rfl⟩
  · split
    · exact .inr rfl
    · split
      · exact .inl ⟨_, by decide, rfl⟩
      · split
        · exact .inl ⟨_, by decide, rfl⟩
        · simp only [ends_ret, true_and]
          omega

/-! ### What every single update keeps, every request of the bus manager keeps -/

/-- `P` is kept by every update a request of the bus manager makes, and where the request ends early `E`
holds. -/
structure BusKeeps (P E : State → Prop) : Prop where
  fault : ∀ f s, f ≠ .bounds → P s → E (setFault f s)
  refused : ∀ r s, P s → E (setRefused r s)
  raise : ∀ c op st off s, c ≠ .ok → P s → E (raise c op st off s)
  clearErr : ∀ s, P s → P (clearErr s)
  oracle : ∀ s o, P s → P { s with oracle := o }
  writeBuscfg : ∀ bc s, P s → P (writeBuscfg bc s)
  writeDevcfg : ∀ dc s, P s → P (writeDevcfg dc s)
  storeHandle : ∀ h s, P s → P (storeHandle h s)
  clearDevcfg : ∀ s, P s → P (clearDevcfg s)
  clearBuscfg : ∀ s, P s → P (clearBuscfg s)
  life : ∀ s c l, P s → P { s with cfg := c, life := l }

variable {P E : State → Prop}

theorem BusKeeps.busInitialize (k : BusKeeps P E) (bc : BusReq) {s : State} (hs : P s) :
    Ends E (fun _ u => P u) (busInitialize bc s) := by
  refine (busInitialize_ends bc s).imp ?_ ?_
  · rintro u ⟨-, rfl⟩
    exact k.fault _ _ (by decide) hs
  · rintro st u ⟨-, s', hd, rfl⟩
    rw [drawBusInit_eq hd]
    split
    · exact k.writeBuscfg _ _ (k.oracle _ _ hs)
    · exact k.oracle _ _ hs

theorem BusKeeps.deviceAttach (k : BusKeeps P E) (dc : DevCfg) {s : State} (hs : P s) :
    Ends E (fun _ u => P u) (deviceAttach dc s) := by
  refine (deviceAttach_ends dc s).imp ?_ ?_
  · rintro u ⟨-, rfl⟩
    exact k.fault _ _ (by decide) hs
  · rintro st u ⟨-, -, st, h, s', hd, ⟨-, -, rfl⟩ | ⟨-, -, rfl⟩⟩
    · rw [drawAttach_eq hd]
      exact k.writeDevcfg _ _ (k.oracle _ _ hs)
    · rw [drawAttach_eq hd]
      exact k.oracle _ _ hs

theorem BusKeeps.deviceDetach (k : BusKeeps P E) (h : Nat) {s : State} (hs : P s) :
    Ends E (fun _ u => P u) (deviceDetach h s) := by
  refine (deviceDetach_ends h s).imp ?_ ?_
  · rintro u (⟨rfl, -⟩ | ⟨-, -, rfl⟩) <;> exact k.fault _ _ (by decide) hs
  · rintro - u ⟨-, -, st, s', hd, rfl⟩
    rw [drawDetach_eq hd]
    exact k.clearDevcfg _ (k.oracle _ _ hs)

theorem BusKeeps.busFree (k : BusKeeps P E) {s : State} (hs : P s) :
    Ends E (fun _ u => P u) (busFree s) := by
  refine (busFree_ends s).imp ?_ ?_
  · rintro u ⟨-, rfl⟩
    exact k.fault _ _ (by decide) hs
  · rintro - u ⟨-, -, st, s', hd, rfl⟩
    rw [drawBusFree_eq hd]
    exact k.clearBuscfg _ (k.oracle _ _ hs)

theorem BusKeeps.readField {α : Type} (k : BusKeeps P E) (f : Option α) {s : State} (hs : P s) :
    Ends E (fun _ u => P u) (readField f s) := by
  cases f with
  | none => exact k.fault _ _ (by decide) hs
  | some a => exact hs

theorem BusKeeps.requireActive (k : BusKeeps P E) {s : State} (hs : P s) :
    Ends E (fun _ u => P u) (requireActive s) := by
  refine (requireActive_ends s).imp ?_ ?_
  · rintro u ⟨-, rfl⟩
    exact k.fault _ _ (by decide) hs
  · rintro - u ⟨-, rfl⟩
    exact hs

theorem BusKeeps.initBus (k : BusKeeps P E) (busId : Nat) (a : InitArgs) {s : State} (hs : P s) :
    Ends E (fun _ u => P u) (initBus busId a s) := by
  refine Ends.andThen (k.busInitialize _ hs) fun st u hu => ?_
  split
  · refine Ends.andThen (k.deviceAttach _ hu) fun r v hv => ?_
    split
    · exact k.life _ _ _ (k.storeHandle _ _ hv)
    · refine Ends.andThen (Q := fun _ u => P u) ?_ fun _ w hw => k.raise _ _ _ _ _ (by decide) hw
      split
      · exact k.busFree hv
      · exact hv
  · exact k.raise _ _ _ _ _ (by decide) hu

end Sys2Proof.Machine
end

