-- ==== Sys2Proof/Laws/Decode.lean ====
section
/-! SUPPORT. The frame keys of the framer's descriptors (30_encoding.md R84, R94), for the statements about
encodings. -/

namespace Sys2Proof.Machine

theorem key_of_fields (t : Desc) :
    t.key = t.flags ++ BitVec.ofNat 8 t.cmd ++ BitVec.ofNat 24 t.addr := rfl

theorem cmdFrameKey_eq_fields : ∀ c : BitVec 8,
    (0x0210 : BitVec 16) ++ BitVec.ofNat 8 (0x02 : BitVec 8).toNat ++ BitVec.ofNat 24 (c.toNat <<< 8) =
      cmdFrameKey c := by
  decide

/-- The key of CMD_FRAME is the encoder's. -/
theorem key_cmdFrame {p : Params} (c : BitVec 8) (tx : List Byte) (h : p.wcCmd = 0x02) :
    (cmdFrame p c tx).key = cmdFrameKey c := by
  rw [← cmdFrameKey_eq_fields, key_of_fields, ← h]
  exact rfl

end Sys2Proof.Machine
end

