-- ==== Sys2Proof/Laws/Framer.lean ====
section
/-! SUPPORT. The framer and the rotator: everything a framed transmit can do, the copies of the rotator, and
the principle that what every single update keeps, every request keeps. -/

namespace Sys2Proof.Machine

/-! ### One framed transmit (42_framer.md R194) -/

/-- Everything a framed transmit can do: it stops or hangs, or its frame was sent or was too long and the
status then ends the request or lets it go on. -/
theorem framedSend_ends (op : OpName) (off : Option Nat) (t : Desc) (s : State) :
    Ends
      (fun u => TransmitStops t s u ∨ FrameHangs t s u ∨ FrameCut t s u ∨
        ∃ st v, st ≠ 0 ∧ s.params.txPolicy = .checked ∧
        (FrameTooLong t st s v ∨ FrameSent t st s v) ∧ u = raise .tx op (some st) off v)
      (fun _ u => ∃ st, (FrameTooLong t st s u ∨ FrameSent t st s u) ∧
        (st = 0 ∨ s.params.txPolicy = .ignored))
      (framedSend op off t s) := by
  refine (transmit_ends t s).andThen' (fun u h => h.imp_right fun h => h.imp_right .inl) fun st u h => ?_
  have hp : u.params = s.params := by
    rcases h with ⟨h1, -⟩ | ⟨dc, -, k, o, s1, -, h1, rfl⟩
    · rw [h1.eq]
    · rw [h1.eq]; rfl
  rw [hp]
  by_cases h0 : st = 0
  · rw [if_neg fun hc => hc.1 h0]
    exact ⟨st, h, .inl h0⟩
  · cases hq : s.params.txPolicy with
    | checked =>
      rw [if_pos ⟨h0, rfl⟩]
      exact .inr (.inr (.inr ⟨st, u, h0, rfl, h, rfl⟩))
    | ignored =>
      rw [if_neg fun hc => by cases hc.2]
      exact ⟨st, h, .inr rfl⟩

/-! ### The copies of the rotator (43_rotator.md R231, R240) -/

/-- What the copy of an element leaves from `s`, where no other thread is. -/
def elemCopied (src : Buf) (e : Nat) (dst : Buf) (e' : Nat) (s : State) : State :=
  { s with
    mem := memSetBytes s.mem (dst.base + s.params.pixelBytes * e')
      (memBytes s.mem (src.base + s.params.pixelBytes * e) s.params.pixelBytes) }

/-- Everything the copy of an element within both buffers can do. -/
theorem copyElem_ends {src dst : Buf} {e e' : Nat} {s : State}
    (h : s.params.pixelBytes * e + s.params.pixelBytes ≤ src.len)
    (h' : s.params.pixelBytes * e' + s.params.pixelBytes ≤ dst.len) :
    Ends (fun r => ∃ u, TimePassed s u ∧ r = setRefused .concurrent u)
      (fun _ v => ∃ u, TimePassed s u ∧ v = elemCopied src e dst e' u) (copyElem src e dst e' s) := by
  refine Ends.andThen (passPoint_ends s) fun _ u hu => ?_
  have hp : u.params = s.params := by rw [hu.eq]
  rw [← hp] at h h'
  rw [memRead_in h, andThen_ret, memWrite_in (by simpa using h')]
  exact ⟨u, hu, rfl⟩

/-- A copy within both buffers, where no other thread is. -/
theorem copyElem_in {src dst : Buf} {e e' : Nat} {s : State} (hq : s.others = [] ∨ s.seq.req = .idle)
    (h : s.params.pixelBytes * e + s.params.pixelBytes ≤ src.len)
    (h' : s.params.pixelBytes * e' + s.params.pixelBytes ≤ dst.len) :
    copyElem src e dst e' s = .ret () (elemCopied src e dst e' s) := by
  rw [copyElem, passPoint_quiet hq, andThen_ret, memRead_in h, andThen_ret, memWrite_in (by simpa using h')]
  rfl

/-- The copies of a row group stay in both buffers (43_rotator.md R243). -/
theorem gather_in_bounds {P r k : Nat} {src dst : Buf} (hr : r < rotRows src dst) (hk : k < dst.len / P) :
    P * (r + k * rotRows src dst) + P ≤ src.len ∧ P * k + P ≤ dst.len := by
  have within : ∀ {e n L : Nat}, e < n → P * n ≤ L → P * e + P ≤ L := fun {e n L} he hL => by
    have := Nat.mul_le_mul_left P (show e + 1 ≤ n from he)
    rw [Nat.mul_add, Nat.mul_one] at this; omega
  have h2 : P * (dst.len / P) ≤ dst.len := Nat.mul_div_le _ _
  have h3 : dst.len * rotRows src dst ≤ src.len := Nat.mul_div_le _ _
  refine ⟨within (n := dst.len / P * rotRows src dst) ?_ ?_, within hk h2⟩
  · have := Nat.mul_le_mul_right (rotRows src dst) (show k + 1 ≤ dst.len / P from hk)
    rw [Nat.add_mul, Nat.one_mul] at this; omega
  · have := Nat.mul_le_mul_right (rotRows src dst) h2
    rw [← Nat.mul_assoc]; omega

/-- The copies of the square transpose stay in both buffers (R231). -/
theorem transpose_in_bounds {P W H i j L : Nat} (hi : i < W) (hj : j < H) (hL : W * H * P = L) :
    P * (j * W + i) + P ≤ L ∧ P * (i * H + j) + P ≤ L := by
  have within : ∀ {e : Nat}, e < W * H → P * e + P ≤ L := fun {e} he => by
    have := Nat.mul_le_mul_left P (show e + 1 ≤ W * H from he)
    rw [Nat.mul_add, Nat.mul_one, Nat.mul_comm P (W * H)] at this; omega
  refine ⟨within ?_, within ?_⟩
  · have := Nat.mul_le_mul_right W (show j + 1 ≤ H from hj)
    rw [Nat.add_mul, Nat.one_mul, Nat.mul_comm H W] at this; omega
  · have := Nat.mul_le_mul_right H (show i + 1 ≤ W from hi)
    rw [Nat.add_mul, Nat.one_mul] at this; omega

/-! ### What every single update keeps, every request keeps -/

/-- A descriptor the framer builds (42_framer.md R192, R196, R198). -/
def Desc.Framed (p : Params) (t : Desc) : Prop :=
  (∃ c tx, t = cmdFrame p c tx) ∨ t = hsFrame p ∨ ∃ tx, t = dataFrame tx

theorem framed_cmd (p : Params) (c : BitVec 8) (tx : List Byte) : Desc.Framed p (cmdFrame p c tx) :=
  .inl ⟨c, tx, rfl⟩

theorem framed_hs (p : Params) : Desc.Framed p (hsFrame p) := .inr (.inl rfl)

theorem framed_data (p : Params) (tx : List Byte) : Desc.Framed p (dataFrame tx) := .inr (.inr ⟨tx, rfl⟩)

/-- `P` is kept by every update a request of the framer makes but the stores into memory, and where the
request ends early `E` holds. -/
structure FramerKeeps (P E : State → Prop) : Prop where
  fault : ∀ f s, f ≠ .bounds → f ≠ .unwritten → P s → E (setFault f s)
  unwritten : ∀ s, s.devHandle = none ∨ s.devcfg = none ∨ s.buscfg = none → P s → E (setFault .unwritten s)
  refused : ∀ r s, r ≠ .descriptor → P s → E (setRefused r s)
  illFormed : ∀ t dc s, Desc.Framed s.params t → s.devcfg = some dc → t.wf s.params.multiline dc = false →
    P s → E (setRefused .descriptor s)
  raise : ∀ c op st off s, c ≠ .ok → P s → E (raise c op st off s)
  clearErr : ∀ s, P s → P (clearErr s)
  setPos : ∀ op pos s, P s → P (setPos op pos s)
  setHeld : ∀ bs s, P s → P (setHeld bs s)
  setReqIdle : ∀ s, P s → P (setReqIdle s)
  sent : ∀ t st s u, FrameSent t st s u → P s → P u
  passed : ∀ s u, TimePassed s u → P s → P u
  hangs : ∀ t s u, FrameHangs t s u → P s → E u
  cut : ∀ t s u, FrameHangs t s u → P s → E (setRefused .concurrent u)

variable {P E : State → Prop}

/-- Where a transmit stops, `E` holds, if it does where its descriptor is ill-formed. -/
theorem FramerKeeps.transmitStops (k : FramerKeeps P E) {t : Desc} {s u : State}
    (ht : ∀ dc, s.devcfg = some dc → t.wf s.params.multiline dc = false → E (setRefused .descriptor s))
    (h : TransmitStops t s u) (hs : P s) : E u := by
  rcases h with ⟨-, rfl⟩ | ⟨hn, rfl⟩ | ⟨dc, hd, hw, rfl⟩
  · exact k.fault _ _ (by decide) (by decide) hs
  · exact k.unwritten _ hn hs
  · exact ht dc hd hw

/-- Where another thread's action ends a transmit, `E` holds. -/
theorem FramerKeeps.frameCut (k : FramerKeeps P E) {t : Desc} {s u : State} (h : FrameCut t s u) (hs : P s) :
    E u := by
  obtain ⟨v, h | h, rfl⟩ := h
  · exact k.cut t s v h hs
  · exact k.refused _ _ (by decide) (k.passed s v h hs)

theorem FramerKeeps.transmit (k : FramerKeeps P E) {t : Desc} {s : State} (ht : Desc.Framed s.params t)
    (hs : P s) : Ends E (fun _ u => P u) (transmit t s) := by
  refine (transmit_ends t s).imp ?_ ?_
  · rintro u (h | h | h)
    · exact k.transmitStops (fun dc hd hw => k.illFormed t dc s ht hd hw hs) h hs
    · exact k.hangs t s u h hs
    · exact k.frameCut h hs
  · rintro st u (⟨h, -⟩ | h)
    · exact k.passed s u h hs
    · exact k.sent t st s u h hs

theorem FramerKeeps.framedSend (k : FramerKeeps P E) (op : OpName) (off : Option Nat) {t : Desc} {s : State}
    (ht : Desc.Framed s.params t) (hs : P s) : Ends E (fun _ u => P u) (framedSend op off t s) := by
  refine Ends.andThen (k.transmit ht hs) fun st u hu => ?_
  split
  · exact k.raise _ _ _ _ _ (by decide) hu
  · exact hu

theorem FramerKeeps.readBuscfg (k : FramerKeeps P E) {s : State} (hs : P s) :
    Ends E (fun a u => P u ∧ s.buscfg = some a) (readField s.buscfg s) := by
  cases h : s.buscfg with
  | none => exact k.unwritten _ (.inr (.inr h)) hs
  | some a => exact ⟨hs, rfl⟩

theorem FramerKeeps.requireActive (k : FramerKeeps P E) {s : State} (hs : P s) :
    Ends E (fun _ u => P u) (requireActive s) := by
  refine (requireActive_ends s).imp ?_ ?_
  · rintro u ⟨-, rfl⟩
    exact k.fault _ _ (by decide) (by decide) hs
  · rintro - u ⟨-, rfl⟩
    exact hs

theorem FramerKeeps.chunkLoop (k : FramerKeeps P E) (op : SeqOp) (at' : Pos → Pos) (data : Buf) :
    ∀ (n off : Nat) (s : State), P s → Ends E (fun _ u => P u) (chunkLoop op at' data n off s)
  | 0, off, s, hs => by
    unfold Machine.chunkLoop
    split
    · exact k.refused _ _ (by decide) hs
    · exact hs
  | n + 1, off, s, hs => by
    unfold Machine.chunkLoop
    split
    · rw [memRead_in (by unfold chunkLen; omega), andThen_ret]
      exact Ends.andThen (k.framedSend _ _ (framed_data _ _) (k.setPos _ _ _ hs)) fun _ u hu =>
        k.chunkLoop op at' data n _ u hu
    · exact hs

theorem FramerKeeps.writeDataBody (k : FramerKeeps P E) (op : SeqOp) (at' : Pos → Pos) (data : Buf)
    {s : State} (hs : P s) : Ends E (fun _ u => P u) (writeDataBody op at' data s) :=
  Ends.andThen (k.framedSend _ _ (framed_hs _) (k.setPos _ _ _ hs)) fun _ u hu =>
    Ends.andThen (k.chunkLoop op at' data _ _ u hu) fun _ _ hv => k.setReqIdle _ hv

theorem FramerKeeps.writeCmdBody (k : FramerKeeps P E) (c : BitVec 8) (b : Buf) {s : State} (hs : P s) :
    Ends E (fun _ u => P u) (writeCmdBody c b s) := by
  refine Ends.andThen (k.readBuscfg (k.clearErr _ hs)) ?_
  rintro bc u ⟨hu, -⟩
  split
  · exact k.raise _ _ _ _ _ (by decide) hu
  · rw [memRead_in (by simp), andThen_ret]
    exact Ends.andThen (k.framedSend _ _ (framed_cmd _ _ _) (k.setPos _ _ _ (k.setHeld _ _ hu))) fun _ v hv =>
      k.setReqIdle _ hv

/-- `P` is kept, besides, by a store of bytes within `dst`. -/
def StoreKeeps (dst : Buf) (P : State → Prop) : Prop :=
  ∀ (s : State) (off : Nat) (v : List Byte), off + v.length ≤ dst.len → P s →
    P { s with mem := memSetBytes s.mem (dst.base + off) v }

theorem FramerKeeps.copyElem {src dst : Buf} (k : FramerKeeps P E) (m : StoreKeeps dst P) {e e' : Nat}
    {s : State} (h : s.params.pixelBytes * e + s.params.pixelBytes ≤ src.len)
    (h' : s.params.pixelBytes * e' + s.params.pixelBytes ≤ dst.len) (hs : P s) :
    Ends E (fun _ u => P u ∧ u.params = s.params) (copyElem src e dst e' s) := by
  refine (copyElem_ends h h').imp ?_ ?_
  · rintro r ⟨u, hu, rfl⟩
    exact k.refused _ _ (by decide) (k.passed _ _ hu hs)
  · rintro - v ⟨u, hu, rfl⟩
    have hp : u.params = s.params := by rw [hu.eq]
    exact ⟨m u _ _ (by rw [hp]; simpa using h') (k.passed _ _ hu hs), hp⟩

theorem FramerKeeps.gatherGroup {src dst : Buf} (k : FramerKeeps P E) (m : StoreKeeps dst P) {r : Nat}
    {s : State} (hr : r < rotRows src dst) (hs : P s) :
    Ends E (fun _ u => P u ∧ u.params = s.params) (gatherGroup src dst (rotRows src dst) r s) := by
  refine Ends.forLoop (I := fun _ u => P u ∧ u.params = s.params) _ 0 s ⟨hs, rfl⟩ ?_
  rintro j u - hj ⟨hu, hp⟩
  have hb := gather_in_bounds (P := s.params.pixelBytes) hr (k := j) (by unfold rotCols at hj; omega)
  refine (k.copyElem m (by rw [hp]; exact hb.1) (by rw [hp]; exact hb.2) hu).imp (fun _ h => h) ?_
  rintro - v ⟨hv, hp'⟩
  exact ⟨hv, hp'.trans hp⟩

theorem FramerKeeps.transpose {src dst : Buf} (k : FramerKeeps P E) (m : StoreKeeps dst P) {s : State}
    (hl : dst.len = src.len) (hq : src.len = rotSquareBytes s.params) (hs : P s) :
    Ends E (fun _ u => P u ∧ u.params = s.params) (transpose src dst s) := by
  refine Ends.forLoop (I := fun _ u => P u ∧ u.params = s.params) _ 0 s ⟨hs, rfl⟩ ?_
  rintro i u - hi ⟨hu, hp⟩
  refine Ends.forLoop (I := fun _ u => P u ∧ u.params = s.params) _ 0 u ⟨hu, hp⟩ ?_
  rintro j v - hj ⟨hv, hp'⟩
  rw [hp] at hj
  have hb := transpose_in_bounds (P := s.params.pixelBytes) (L := src.len) (show i < s.params.rotW by omega)
    (show j < s.params.rotH by omega) (by rw [hq]; rfl)
  refine (k.copyElem m (by rw [hp']; exact hb.1) (by rw [hp', hl]; exact hb.2) hv).imp (fun _ h => h) ?_
  rintro - w ⟨hw, hp''⟩
  exact ⟨hw, hp''.trans hp'⟩

theorem FramerKeeps.rotateGroup {src dst : Buf} (k : FramerKeeps P E) (m : StoreKeeps dst P) {r : Nat}
    {s : State} (hr : r < rotRows src dst) (hs : P s) :
    Ends E (fun _ u => P u) (rotateGroup src dst (rotRows src dst) r s) := by
  refine Ends.andThen (k.gatherGroup m hr (k.setPos _ _ _ hs)) ?_
  rintro - u ⟨hu, -⟩
  rw [memRead_in (by simp), andThen_ret]
  exact k.framedSend _ _ (framed_data _ _) hu

/-- Everything WRITE_DATA_ROTATE does after its lifecycle check keeps what its single updates keep. -/
theorem FramerKeeps.rotateBody {src dst : Buf} (k : FramerKeeps P E) (m : StoreKeeps dst P) {s : State}
    (hs : P s) : Ends E (fun _ u => P u) (rotateBody src dst s) := by
  have hc := k.clearErr _ hs
  unfold Machine.rotateBody
  split
  · exact k.fault _ _ (by decide) (by decide) hs
  · split
    · unfold rotateSquare
      split
      · exact k.raise _ _ _ _ _ (by decide) hc
      · have hq : src.len = rotSquareBytes (Machine.clearErr s).params := by
          rename_i h; exact Decidable.not_not.mp h
        refine Ends.andThen (k.transpose m (by assumption) hq (k.setPos _ _ _ (k.setHeld _ _ hc))) ?_
        rintro - u ⟨hu, -⟩
        exact k.writeDataBody _ _ _ hu
    · unfold rotateFallback
      split
      · exact k.raise _ _ _ _ _ (by decide) hc
      · refine Ends.andThen (k.readBuscfg hc) ?_
        rintro bc u ⟨hu, -⟩
        split
        · exact k.raise _ _ _ _ _ (by decide) hu
        · refine Ends.andThen (k.framedSend _ _ (framed_hs _) (k.setPos _ _ _ (k.setHeld _ _ hu))) fun _ v hv => ?_
          refine Ends.andThen (Ends.forLoop (I := fun _ w => P w) _ 0 v hv ?_) fun _ w hw =>
            k.setReqIdle _ hw
          intro j w _ hj hw
          exact k.rotateGroup m (by omega) hw

/-- The next state of a request whose body keeps `P`. -/
theorem finish_keeps {α : Type} {r : α → Ret} {c : Call α} {t : State} (h : Ends E (fun _ u => P u) c)
    (hr : ∀ a u, P u → E (setRet (r a) u)) (ht : finish r c = .next t) : E t := by
  rcases finish_ends h ht with h | ⟨a, u, hu, rfl⟩
  · exact h
  · exact hr a u hu

end Sys2Proof.Machine
end

