-- ==== Sys2Proof/Laws/Exec.lean ====
section
/-! SUPPORT. Instructions: what every single update keeps, every instruction keeps. -/

namespace Sys2Proof.Machine

/-- The requests of the framer and of the rotator, and the transmits. -/
def Instr.Sends : Instr → Prop
  | .writeCmd _ _ => True
  | .writeData _ => True
  | .writeDataRotate _ _ => True
  | .pollingTransmit _ _ => True
  | .cmdFrame _ _ => True
  | .hsFrame => True
  | .dataFrame _ => True
  | _ => False

/-- Every instruction answers a next state: what ends a run is a mark in it. -/
theorem exec_next (i : Instr) (s : State) : ∃ t, exec i s = .next t := by
  cases i <;> exact finish_next _ _

variable {P E : State → Prop}

/-- An instruction that sends frames keeps what its single updates keep. -/
theorem exec_keeps_of_sends (k : FramerKeeps P E) (hr : ∀ r u, P u → E (setRet r u)) {i : Instr}
    {s t : State} (hs : P s) (m : ∀ src dst, i = .writeDataRotate src dst → StoreKeeps dst P)
    (raw : ∀ h d, i = .pollingTransmit h d → E (setRefused .descriptor s))
    (hi : Instr.Sends i) (h : exec i s = .next t) : E t := by
  cases i with
  | writeCmd c ps =>
    exact finish_keeps (Ends.andThen (k.requireActive hs) fun _ u hu => k.writeCmdBody c _ hu)
      (fun _ u hu => hr _ _ hu) h
  | writeData b =>
    exact finish_keeps
      (Ends.andThen (k.requireActive hs) fun _ u hu => k.writeDataBody _ _ b (k.setHeld _ _ (k.clearErr _ hu)))
      (fun _ u hu => hr _ _ hu) h
  | writeDataRotate b d =>
    exact finish_keeps (Ends.andThen (k.requireActive hs) fun _ u hu => k.rotateBody (m b d rfl) hu)
      (fun _ u hu => hr _ _ hu) h
  | pollingTransmit g d =>
    refine finish_keeps ((pollingTransmit_ends g d s).imp ?_ ?_) (fun _ u hu => hr _ _ hu) h
    · rintro u (⟨-, rfl⟩ | h | h | h)
      · exact k.fault _ _ (by decide) (by decide) hs
      · exact k.transmitStops (fun _ _ _ => raw _ _ rfl) h hs
      · exact k.hangs _ _ _ h hs
      · exact k.frameCut h hs
    · rintro st u (⟨h, -⟩ | h)
      · exact k.passed _ _ h hs
      · exact k.sent _ _ _ _ h hs
  | cmdFrame c tx => exact finish_keeps (k.transmit (framed_cmd _ _ _) hs) (fun _ u hu => hr _ _ hu) h
  | hsFrame => exact finish_keeps (k.transmit (framed_hs _) hs) (fun _ u hu => hr _ _ hu) h
  | dataFrame tx => exact finish_keeps (k.transmit (framed_data _ _) hs) (fun _ u hu => hr _ _ hu) h
  | init _ _ _ _ _ _ => exact hi.elim
  | deinit => exact hi.elim
  | readAttr _ => exact hi.elim
  | busInitialize _ _ => exact hi.elim
  | deviceAttach _ _ => exact hi.elim
  | deviceDetach _ => exact hi.elim
  | busFree _ => exact hi.elim

/-- An instruction of the bus manager keeps what its single updates keep. -/
theorem exec_keeps_of_not_sends (k : BusKeeps P E) (hr : ∀ r u, P u → E (setRet r u)) {i : Instr}
    {s t : State} (hs : P s) (hi : ¬ Instr.Sends i) (h : exec i s = .next t) : E t := by
  cases i with
  | init busId sck pins baud pol ph =>
    refine finish_keeps ?_ (fun _ u hu => hr _ _ hu) h
    split
    · exact k.fault _ _ (by decide) hs
    · refine (initCheck_ends _ _ _ _ _ _).andThen' ?_ ?_
      · rintro u (⟨c, hc, rfl⟩ | rfl)
        · exact k.raise _ _ _ _ _ hc (k.clearErr _ hs)
        · exact k.refused _ _ (k.clearErr _ hs)
      · rintro a u ⟨rfl, -⟩
        exact k.initBus _ _ (k.clearErr _ hs)
  | deinit =>
    refine finish_keeps ?_ (fun _ u hu => hr _ _ hu) h
    refine Ends.andThen (k.requireActive hs) fun _ u hu => ?_
    refine (attachedHandle_ends _).andThen' ?_ ?_
    · rintro v (⟨-, rfl⟩ | ⟨-, -, rfl⟩) <;> exact k.fault _ _ (by decide) (k.clearErr _ hu)
    · rintro g v ⟨-, -, rfl⟩
      refine Ends.andThen (k.deviceDetach _ (k.clearErr _ hu)) fun _ w hw => ?_
      refine Ends.andThen (k.readField _ hw) fun _ x hx => ?_
      exact Ends.andThen (k.busFree hx) fun _ y hy => k.life _ y.cfg _ hy
  | readAttr sel =>
    refine finish_keeps ?_ (fun _ u hu => hr _ _ hu) h
    refine Ends.andThen (k.requireActive hs) fun _ u hu => ?_
    refine Ends.andThen (k.readField _ hu) fun _ x hx => ?_
    split
    · exact hx
    · exact k.refused _ _ hx
  | busInitialize id bc => exact finish_keeps (k.busInitialize _ hs) (fun _ u hu => hr _ _ hu) h
  | deviceAttach id dc =>
    refine finish_keeps (P := P) (Ends.andThen (k.deviceAttach _ hs) fun _ u hu => ?_)
      (fun _ u hu => hr _ _ hu) h
    exact k.storeHandle _ _ hu
  | deviceDetach g => exact finish_keeps (k.deviceDetach _ hs) (fun _ u hu => hr _ _ hu) h
  | busFree id => exact finish_keeps (k.busFree hs) (fun _ u hu => hr _ _ hu) h
  | writeCmd _ _ => exact (hi trivial).elim
  | writeData _ => exact (hi trivial).elim
  | writeDataRotate _ _ => exact (hi trivial).elim
  | pollingTransmit _ _ => exact (hi trivial).elim
  | cmdFrame _ _ => exact (hi trivial).elim
  | hsFrame => exact (hi trivial).elim
  | dataFrame _ => exact (hi trivial).elim

/-- Every instruction keeps what every single update keeps. -/
theorem exec_keeps (k : FramerKeeps P E) (b : BusKeeps P E) (hr : ∀ r u, P u → E (setRet r u))
    {i : Instr} {s t : State} (hs : P s) (m : ∀ src dst, i = .writeDataRotate src dst → StoreKeeps dst P)
    (raw : ∀ h d, i = .pollingTransmit h d → E (setRefused .descriptor s))
    (h : exec i s = .next t) : E t := by
  by_cases hi : Instr.Sends i
  · exact exec_keeps_of_sends k hr hs m raw hi h
  · exact exec_keeps_of_not_sends b hr hs hi h

end Sys2Proof.Machine
end

