-- ==== Sys2Proof/Laws/PerInstr.lean ====
section
/-! SUPPORT. The family `Row`: the header of every instruction's encoding matches that instruction's row of
spec/opcode_table.json. -/

namespace Sys2Proof.Laws.Row

/-- A row of spec/opcode_table.json: its width in bits, its mask and its match. -/
structure TableRow where
  bits  : Nat
  mask  : Nat
  value : Nat
  deriving DecidableEq, Repr

/-- The instruction's row, as the table has it. -/
def row : Instr → TableRow
  | .init _ _ _ _ _ _ => ⟨8, 0xFF, 0x01⟩
  | .deinit => ⟨8, 0xFF, 0x02⟩
  | .writeCmd _ _ => ⟨8, 0xFF, 0x03⟩
  | .writeData _ => ⟨8, 0xFF, 0x04⟩
  | .writeDataRotate _ _ => ⟨8, 0xFF, 0x05⟩
  | .readAttr _ => ⟨8, 0xFF, 0x06⟩
  | .busInitialize _ _ => ⟨8, 0xFF, 0x08⟩
  | .deviceAttach _ _ => ⟨8, 0xFF, 0x09⟩
  | .deviceDetach _ => ⟨8, 0xFF, 0x0A⟩
  | .busFree _ => ⟨8, 0xFF, 0x0B⟩
  | .pollingTransmit _ _ => ⟨8, 0xFF, 0x0C⟩
  | .cmdFrame _ _ => ⟨48, 0xFFFFFFFF00FF, 0x021002000000⟩
  | .hsFrame => ⟨48, 0xFFFFFFFFFFFF, 0x000232002C00⟩
  | .dataFrame _ => ⟨48, 0xFFFFFFFFFFFF, 0x00E200000000⟩

/-- A packet's header, its request word or its frame key, with its width. -/
def header : Packet → Nat × Nat
  | .host req _ => (8, req.toNat)
  | .controller req _ => (8, req.toNat)
  | .frame _ fk _ => (48, fk.toNat)

/-- The header of the instruction's encoding is as wide as its row and matches it. -/
def Statement (i : Instr) : Prop :=
  (header (encode i)).1 = (row i).bits ∧ (header (encode i)).2 &&& (row i).mask = (row i).value

theorem init (id sck : Nat) (pins : List Nat) (baud : Nat) (pol ph : Option Nat) :
    Statement (.init id sck pins baud pol ph) := ⟨rfl, by simp only [header, encode, row]; decide⟩

theorem deinit : Statement .deinit := ⟨rfl, by simp only [header, encode, row]; decide⟩

theorem writeCmd (c : BitVec 8) (params : Option Buf) : Statement (.writeCmd c params) := ⟨rfl, by simp only [header, encode, row]; decide⟩

theorem writeData (b : Buf) : Statement (.writeData b) := ⟨rfl, by simp only [header, encode, row]; decide⟩

theorem writeDataRotate (b d : Buf) : Statement (.writeDataRotate b d) := ⟨rfl, by simp only [header, encode, row]; decide⟩

theorem readAttr (sel : BitVec 4) : Statement (.readAttr sel) := ⟨rfl, by simp only [header, encode, row]; decide⟩

theorem busInitialize (id : Nat) (bc : BusReq) : Statement (.busInitialize id bc) := ⟨rfl, by simp only [header, encode, row]; decide⟩

theorem deviceAttach (id : Nat) (dc : DevCfg) : Statement (.deviceAttach id dc) := ⟨rfl, by simp only [header, encode, row]; decide⟩

theorem deviceDetach (h : Nat) : Statement (.deviceDetach h) := ⟨rfl, by simp only [header, encode, row]; decide⟩

theorem busFree (id : Nat) : Statement (.busFree id) := ⟨rfl, by simp only [header, encode, row]; decide⟩

theorem pollingTransmit (h : Nat) (t : Desc) : Statement (.pollingTransmit h t) := ⟨rfl, by simp only [header, encode, row]; decide⟩

theorem cmdFrameKey_matches : ∀ c : BitVec 8, cmdFrameKey c &&& 0xFFFFFFFF00FF = 0x021002000000 := by
  decide

theorem cmdFrame (c : BitVec 8) (tx : List Byte) : Statement (.cmdFrame c tx) :=
  ⟨rfl, by
    have h := congrArg BitVec.toNat (cmdFrameKey_matches c)
    rw [BitVec.toNat_and] at h
    exact h⟩

theorem hsFrame : Statement .hsFrame := ⟨rfl, by simp only [header, encode, row]; decide⟩

theorem dataFrame (tx : List Byte) : Statement (.dataFrame tx) := ⟨rfl, by simp only [header, encode, row]; decide⟩

end Sys2Proof.Laws.Row
end

