-- ==== Sys2Proof/Laws/Serial.lean ====
section
/-! SUPPORT. Serialization: how many bits and beats each phase has, and which phase a beat belongs to
(41_line_sequencer.md R152, R153, R166). -/

namespace Sys2Proof.Machine

@[simp] theorem bitsMsb_length (n v : Nat) : (bitsMsb n v).length = n := by
  induction n with
  | zero => rfl
  | succ n ih => simp [bitsMsb, ih]

@[simp] theorem payloadBits_nil : payloadBits [] = [] := rfl

theorem payloadBits_cons (b : Byte) (tx : List Byte) :
    payloadBits (b :: tx) = bitsMsb 8 b.toNat ++ payloadBits tx := by
  simp [payloadBits]

@[simp] theorem payloadBits_length (tx : List Byte) : (payloadBits tx).length = 8 * tx.length := by
  induction tx with
  | nil => rfl
  | cons b tx ih => simp [payloadBits_cons, ih]; omega

/-- Four bits at a time. -/
theorem quadBeats_length (tag : Phase) : ∀ (n : Nat) (bits : List Bool), bits.length = 4 * n →
    (quadBeats tag bits).length = n
  | 0, bits, h => by
    have : bits = [] := List.eq_nil_of_length_eq_zero (by omega)
    subst this; rfl
  | n + 1, bits, h => by
    match bits, h with
    | b1 :: b2 :: b3 :: b4 :: bs, h =>
      simp only [quadBeats, List.length_cons] at h ⊢
      rw [quadBeats_length tag n bs (by omega)]

/-- A phase of `bits.length` bits has that many over its width beats (R152). -/
theorem phaseBeats_length (w : LineWidth) (tag : Phase) (bits : List Bool)
    (h : bits.length % w.lines = 0) : (phaseBeats w tag bits).length = bits.length / w.lines := by
  cases w with
  | single => simp [phaseBeats, LineWidth.lines]
  | quad =>
    simp only [LineWidth.lines] at h ⊢
    exact quadBeats_length tag _ bits (by omega)

theorem quadBeats_tag (tag : Phase) : ∀ (bits : List Bool) (b : Beat), b ∈ quadBeats tag bits → b.tag = tag
  | [], b, h => by simp [quadBeats] at h
  | [_], b, h => by simp [quadBeats] at h
  | [_, _], b, h => by simp [quadBeats] at h
  | [_, _, _], b, h => by simp [quadBeats] at h
  | _ :: _ :: _ :: _ :: bs, b, h => by
    simp only [quadBeats, List.mem_cons] at h
    rcases h with h | h
    · rw [h]; rfl
    · exact quadBeats_tag tag bs b h

/-- Every beat of a phase carries its tag. -/
theorem phaseBeats_tag {w : LineWidth} {tag : Phase} {bits : List Bool} {b : Beat}
    (h : b ∈ phaseBeats w tag bits) : b.tag = tag := by
  cases w with
  | single =>
    simp only [phaseBeats, List.mem_map] at h
    obtain ⟨x, -, rfl⟩ := h; rfl
  | quad => exact quadBeats_tag tag bits b h

/-- The four parts of a serialization. -/
def phasePart (m : Multiline) (dc : DevCfg) (t : Desc) : Phase → List Beat
  | .cmd => phaseBeats (widthCmd m dc t) .cmd (bitsMsb (lenCmd dc t) t.cmd)
  | .addr => phaseBeats (widthAddr m dc t) .addr (bitsMsb (lenAddr dc t) t.addr)
  | .dummy => List.replicate (lenDummy dc t) dummyBeat
  | .data => phaseBeats (widthData dc t) .data (payloadBits t.tx)

/-- A frame is its four phases in their order (R153). -/
theorem serialize_eq (m : Multiline) (dc : DevCfg) (t : Desc) :
    serialize m dc t = phasePart m dc t .cmd ++ phasePart m dc t .addr ++ phasePart m dc t .dummy ++
      phasePart m dc t .data := rfl

theorem phasePart_tag {m : Multiline} {dc : DevCfg} {t : Desc} {p : Phase} {b : Beat}
    (h : b ∈ phasePart m dc t p) : b.tag = p := by
  cases p with
  | cmd => exact phaseBeats_tag h
  | addr => exact phaseBeats_tag h
  | dummy => rw [(List.mem_replicate.mp h).2]; rfl
  | data => exact phaseBeats_tag h

/-- The checks of a well-formed descriptor that serialization needs. -/
theorem wf_lengths {m : Multiline} {dc : DevCfg} {t : Desc} (h : t.wf m dc = true) :
    t.bitLength = 8 * t.tx.length ∧ ∀ p, phaseLen dc t p % phaseStep m dc t p = 0 := by
  simp only [Desc.wf, Desc.wf3, Desc.wf5, Bool.and_eq_true, beq_iff_eq] at h
  refine ⟨h.1.1.2, fun p => ?_⟩
  cases p with
  | cmd => exact h.1.2.1.1
  | addr => exact h.1.2.1.2
  | dummy => exact Nat.mod_one _
  | data => exact h.1.2.2

/-- A well-formed descriptor's phases have their lengths over their widths beats (R152). -/
theorem phasePart_length {m : Multiline} {dc : DevCfg} {t : Desc} (h : t.wf m dc = true) (p : Phase) :
    (phasePart m dc t p).length = phaseLen dc t p / phaseStep m dc t p := by
  obtain ⟨hb, hd⟩ := wf_lengths h
  cases p with
  | cmd =>
    have := phaseBeats_length (widthCmd m dc t) .cmd (bitsMsb (lenCmd dc t) t.cmd) (by simpa [phaseLen, phaseStep] using hd .cmd)
    simpa [phasePart, phaseLen, phaseStep] using this
  | addr =>
    have := phaseBeats_length (widthAddr m dc t) .addr (bitsMsb (lenAddr dc t) t.addr)
      (by simpa [phaseLen, phaseStep] using hd .addr)
    simpa [phasePart, phaseLen, phaseStep] using this
  | dummy => simp [phasePart, phaseLen, phaseStep]
  | data =>
    have := phaseBeats_length (widthData dc t) .data (payloadBits t.tx)
      (by simpa [phaseLen, phaseStep, lenData, hb] using hd .data)
    simpa [phasePart, phaseLen, phaseStep, lenData, hb] using this

theorem phaseStep_pos (m : Multiline) (dc : DevCfg) (t : Desc) (p : Phase) : 0 < phaseStep m dc t p := by
  have hw : ∀ w : LineWidth, 0 < w.lines := fun w => by cases w <;> decide
  cases p with
  | cmd => exact hw _
  | addr => exact hw _
  | dummy => exact Nat.one_pos
  | data => exact hw _

end Sys2Proof.Machine
end

