-- ==== Sys2Proof/Laws/Step.lean ====
section
/-! SUPPORT. Steps: everything a step can do, said once. -/

namespace Sys2Proof.Machine

/-- Everything a step that goes on can do: it sets a refusal mark, is idle, takes in a host write, lets time pass
while a request hangs, or runs the instruction of the packet it takes. -/
theorem step_next {s t : State} (h : step s = .next t) :
    s.fault = none ∧ s.refused = none ∧
    ((∃ r, r ≠ .descriptor ∧ t = setRefused r s) ∨ t = s ∨
      (paramsOk s.params = true ∧ inProgress s = false ∧
        ∃ a bs es, s.inbox = .hostWrite a bs :: es ∧ t = hostWrite a bs { s with inbox := es }) ∨
      (paramsOk s.params = true ∧ inProgress s = true ∧
        (TimePassed s t ∨ ∃ u, TimePassed s u ∧ t = setRefused .concurrent u)) ∨
      (paramsOk s.params = true ∧ inProgress s = false ∧
        ∃ p i es, s.inbox = .packet p :: es ∧ decode p = .ok i ∧ exec i { s with inbox := es } = .next t)) := by
  unfold step fetch at h
  rcases Option.eq_none_or_eq_some s.fault with hf | ⟨f, hf⟩
  · rcases Option.eq_none_or_eq_some s.refused with hr | ⟨r, hr⟩
    · refine ⟨hf, hr, ?_⟩
      simp only [hf, hr] at h
      by_cases hp : paramsOk s.params = true
      · simp only [hp, if_true] at h
        cases hb : inProgress s with
        | true =>
          simp only [hb, if_true] at h
          unfold fetchBusy at h
          have ht := passPoints_is s.others 1 s
          refine .inr (.inr (.inr (.inl ⟨hp, rfl, ?_⟩)))
          cases hq : passPoints s.others 1 s with
          | through u =>
            rw [hq] at h ht
            simp only [Host.Outcome.next.injEq] at h
            exact .inl (h ▸ ht)
          | cut k r =>
            rw [hq] at h ht
            simp only [Host.Outcome.next.injEq] at h
            exact .inr (h ▸ ht.2)
        | false =>
          simp only [hb, Bool.false_eq_true, if_false] at h
          unfold fetchIdle at h
          cases ho : s.inbox with
          | nil => simp only [ho, Host.Outcome.next.injEq] at h; exact .inr (.inl h.symm)
          | cons e es =>
            cases e with
            | hostWrite a bs =>
              simp only [ho, Host.Outcome.next.injEq] at h
              exact .inr (.inr (.inl ⟨hp, rfl, a, bs, es, rfl, h.symm⟩))
            | packet p =>
              simp only [ho, fetchPacket] at h
              cases hd : decode p with
              | ok i =>
                simp only [hd] at h
                exact .inr (.inr (.inr (.inr ⟨hp, rfl, p, i, es, rfl, hd, h⟩)))
              | reservedOp => simp only [hd, Host.Outcome.next.injEq] at h; exact .inl ⟨_, by decide, h.symm⟩
              | internalOp => simp only [hd, Host.Outcome.next.injEq] at h; exact .inl ⟨_, by decide, h.symm⟩
      · simp only [hp, Bool.false_eq_true, if_false, Host.Outcome.next.injEq] at h
        exact .inl ⟨_, by decide, h.symm⟩
    · simp [hf, hr] at h
  · simp [hf] at h

end Sys2Proof.Machine
end

