-- ==== Sys2Proof/Tests/Slice0.lean ====
section
/-! SUPPORT. Tests: ill-formed terms, words written out from the encodings of 30_encoding.md, single steps checked
against the vectors of 95_test_vectors.md (V1 to V65), and for every statement with hypotheses a state and
operands that meet them. -/

namespace Sys2Proof.Tests

open Sys2Proof Sys2Proof.Machine

/-! ### Small machines -/

/-- Parameters without free values: pins 3 to 7 resolve to ten times themselves, pin 9 to none; chunks of two
bytes, transfers of eight, and an image of 2 × 3 pixels. -/
def prm : Params :=
  { Config.params with
    chunkBytes := 2
    maxXferBytes := 8
    rotW := 2
    rotH := 3
    stTooLong := 77
    dmaCh := 5
    pins := [(3, some 30), (4, some 40), (5, some 50), (6, some 60), (7, some 70), (9, none)] }

/-- Before INIT, with answers for every primitive. -/
def fresh : State :=
  { State.reset with
    params := prm
    oracle := ⟨[0], [(0, 21)], [0], [0], [.status 0 0], 0⟩ }

def devcfg0 : DevCfg := initDevCfg prm 40000000 0 0

def buscfg0 : BusCfg := ⟨initBusReq prm 30 ⟨40, 50, 60, 70⟩, 5⟩

/-- After a successful INIT, with the answers `as` to come and host memory `m`. -/
def live (as : List TxAnswer) (m : Memory) : State :=
  { State.reset with
    params := prm
    life := .active
    bus := .ready
    dev := .attached
    cfg := some ⟨2, 30, ⟨40, 50, 60, 70⟩, 40000000, 0, 0⟩
    devHandle := some 21
    devcfg := some devcfg0
    buscfg := some buscfg0
    lines := ⟨.low, ⟨.z, .z, .z, .z⟩⟩
    mem := m
    oracle := ⟨[], [], [0], [0], as, 0⟩ }

/-- `n` answers of status 0. -/
def oks (n : Nat) : List TxAnswer := List.replicate n (.status 0 0)

/-- The next state of an outcome. -/
def nextOf (o : Host.Outcome State Fault Refusal) : State :=
  match o with
  | .next s => s
  | _ => State.reset

/-- Bits as the beats of a single line, in order; `none` where another line is driven. -/
def singleBits (bs : List Beat) : List (Option Bool) :=
  bs.map fun b =>
    if b.d.d1 = .z ∧ b.d.d2 = .z ∧ b.d.d3 = .z then
      if b.d.d0 = .one then some true else if b.d.d0 = .zero then some false else none
    else none

/-- The number on the four lines, D3 the most significant; 16 where a line is not driven. -/
def quadNumber (b : Beat) : Nat :=
  let bit (l : Level) : Nat := if l = .one then 1 else if l = .zero then 0 else 16
  8 * bit b.d.d3 + 4 * bit b.d.d2 + 2 * bit b.d.d1 + bit b.d.d0

/-! ### WellFormed: a term that each check refuses -/

/-- R28: `master` is 1. -/
theorem test_wf_master : (Instr.busInitialize 1 ⟨⟨0, 1, 2, 3⟩, 4, 8, false, true⟩).wellFormed = false := by
  decide

/-- R28: `quad_gpio` is 1. -/
theorem test_wf_quadGpio : (Instr.busInitialize 1 ⟨⟨0, 1, 2, 3⟩, 4, 8, true, false⟩).wellFormed = false := by
  decide

/-- R26: `no_cs` is 1. -/
theorem test_wf_noCs :
    (Instr.deviceAttach 1 ⟨8, 24, 0, 0, 1, false, true, 10, .single⟩).wellFormed = false := by decide

/-- R26: `half_duplex` is 1. -/
theorem test_wf_halfDuplex :
    (Instr.deviceAttach 1 ⟨8, 24, 0, 0, 1, true, false, 10, .single⟩).wellFormed = false := by decide

/-- R81: the selector is 0 to 8. -/
theorem test_wf_selector : (Instr.readAttr 9).wellFormed = false := by decide

/-- R93 WF1 (V11). -/
theorem test_wf_wf1 : (Instr.pollingTransmit 1 ⟨0x0001, 0, 0, 0, 0, 0, [], 0⟩).wellFormed = false := by decide

/-- R93 WF2 (V12). -/
theorem test_wf_wf2 : (Instr.pollingTransmit 1 ⟨0x00E2, 0, 0, 8, 0, 0, [], 0⟩).wellFormed = false := by decide

/-- R93 WF3 (V13). -/
theorem test_wf_wf3 :
    (Instr.pollingTransmit 1 ⟨0x00E2, 0, 0, 0, 0, 0, [1, 2, 3], 20⟩).wellFormed = false := by decide

/-- R93 WF6 (V14). -/
theorem test_wf_wf6 :
    (Instr.pollingTransmit 1 ⟨0x0002, 0, 0x1000000, 0, 0, 0, [], 0⟩).wellFormed = false := by decide

/-- R198: a DATA_FRAME carries at least one byte. -/
theorem test_wf_emptyData : (Instr.dataFrame []).wellFormed = false := by decide

/-- R26, R30: the ranges of the header lengths are in their types. -/
theorem test_wf_ranges (dc : DevCfg) (t : Desc) :
    dc.commandBits.val ≤ 8 ∧ dc.addressBits.val ≤ 24 ∧ t.cmdLen.val ≤ 8 ∧ t.addrLen.val ≤ 24 :=
  ⟨by omega, by omega, by omega, by omega⟩

/-- Terms that every check lets pass. -/
theorem test_wf_passes :
    (Instr.busInitialize 1 ⟨⟨0, 1, 2, 3⟩, 4, 8, true, true⟩).wellFormed = true ∧
    (Instr.deviceAttach 1 ⟨8, 24, 0, 0, 1, true, true, 10, .single⟩).wellFormed = true ∧
    (Instr.readAttr 8).wellFormed = true ∧
    (Instr.pollingTransmit 1 ⟨0x00E2, 0, 0, 0, 0, 0, [1], 8⟩).wellFormed = true ∧
    (Instr.dataFrame [1]).wellFormed = true := by decide

/-! ### Decoding: words written out bit by bit from 30_encoding.md R80, R82, R84 and R94 -/

theorem test_decode_init :
    decode (.host 0b00000001 { id := 2, sck := 3, pins := [4, 5, 6, 7], baudrate := 40000000 }) =
      .ok (.init 2 3 [4, 5, 6, 7] 40000000 none none) := by decide

theorem test_decode_deinit : decode (.host 0b00000010 {}) = .ok .deinit := by decide

theorem test_decode_writeCmd :
    decode (.host 0b00000011 { c := 0x36, params := some ⟨16, 1⟩ }) =
      .ok (.writeCmd 0x36 (some ⟨16, 1⟩)) := by decide

theorem test_decode_writeData :
    decode (.host 0b00000100 { data := ⟨16, 3⟩ }) = .ok (.writeData ⟨16, 3⟩) := by decide

theorem test_decode_writeDataRotate :
    decode (.host 0b00000101 { data := ⟨0, 8⟩, scratch := ⟨8, 4⟩ }) =
      .ok (.writeDataRotate ⟨0, 8⟩ ⟨8, 4⟩) := by decide

theorem test_decode_readAttr : decode (.host 0b00000110 { sel := 5 }) = .ok (.readAttr 5) := by decide

theorem test_decode_busInitialize :
    decode (.controller 0b00001000 { id := 2, bc := ⟨⟨4, 5, 6, 7⟩, 3, 8, true, true⟩ }) =
      .ok (.busInitialize 2 ⟨⟨4, 5, 6, 7⟩, 3, 8, true, true⟩) := by decide

theorem test_decode_deviceAttach :
    decode (.controller 0b00001001 { id := 2, dc := ⟨8, 24, 0, 3, 1, true, true, 10, .single⟩ }) =
      .ok (.deviceAttach 2 ⟨8, 24, 0, 3, 1, true, true, 10, .single⟩) := by decide

theorem test_decode_deviceDetach :
    decode (.controller 0b00001010 { handle := 21 }) = .ok (.deviceDetach 21) := by decide

theorem test_decode_busFree : decode (.controller 0b00001011 { id := 2 }) = .ok (.busFree 2) := by decide

theorem test_decode_pollingTransmit :
    decode (.controller 0b00001100 { handle := 21, t := ⟨0x0002, 1, 2, 0, 0, 0, [], 0⟩ }) =
      .ok (.pollingTransmit 21 ⟨0x0002, 1, 2, 0, 0, 0, [], 0⟩) := by decide

/-- V7: `flags` 0x0210, `cmd` 0x02, `addr` 0x001100. -/
theorem test_decode_cmdFrame :
    decode (.frame 0 0b000000100001000000000010000000000001000100000000 [0x60]) =
      .ok (.cmdFrame 0x11 [0x60]) := by decide

/-- V9: `flags` 0x0002, `cmd` 0x32, `addr` 0x002C00. -/
theorem test_decode_hsFrame :
    decode (.frame 0 0b000000000000001000110010000000000010110000000000 []) = .ok .hsFrame := by decide

/-- V10: `flags` 0x00E2, `cmd` 0, `addr` 0. -/
theorem test_decode_dataFrame :
    decode (.frame 0 0b000000001110001000000000000000000000000000000000 [1, 2]) =
      .ok (.dataFrame [1, 2]) := by decide

/-- V8: FK[7:0] is not 0, so no kind matches. -/
theorem test_decode_rawFrame :
    decode (.frame 21 0b000000100001000000000010000000000001000111111111 []) =
      .ok (.pollingTransmit 21 ⟨0x0210, 0x02, 0x0011FF, 0, 0, 0, [], 0⟩) := by decide

/-- V1 to V4. -/
theorem test_decode_reserved :
    decode (.host 0x00 {}) = .reservedOp ∧ decode (.host 0x07 {}) = .reservedOp ∧
    decode (.host 0x0D {}) = .reservedOp ∧ decode (.host 0x0E {}) = .reservedOp ∧
    decode (.host 0x0F {}) = .reservedOp ∧ decode (.host 0x13 {}) = .reservedOp := by decide

/-- V5. -/
theorem test_decode_internal :
    decode (.host 0x08 {}) = .internalOp ∧ decode (.host 0x0C {}) = .internalOp := by decide

/-! ### One step after reset -/

/-- A table word is fetched and run as the first instruction. -/
theorem test_fetchWord_init :
    step (State.reset.withFetchWord 8 0x01) = exec (.init 0 0 [] 0 none none) State.reset := by rfl

theorem test_fetchWord_dataFrame :
    step (State.reset.withFetchWord 48 0x00E200000000) = exec (.dataFrame []) State.reset := by rfl

/-! ### Single instructions against the vectors -/

/-- V50. -/
theorem test_init_attaches :
    let s := nextOf (exec (.init 2 3 [4, 5, 6, 7] 40000000 none none) fresh)
    s.life = .active ∧ s.bus = .ready ∧ s.dev = .attached ∧ s.ret = .code .ok ∧
    s.devcfg = some ⟨8, 24, 0, 0, 40000000, true, true, 10, .single⟩ := by decide

/-- V51. -/
theorem test_init_mode3 :
    let s := nextOf (exec (.init 2 3 [4, 5, 6, 7] 40000000 (some 1) (some 1)) fresh)
    (s.devcfg.map DevCfg.mode) = some 3 ∧ s.lines.sck = .high := by decide

/-- V61. -/
theorem test_deinit :
    let s := nextOf (exec .deinit (live [] []))
    s.life = .released ∧ s.bus = .free ∧ s.dev = .detached ∧ s.ret = .code .ok ∧
    s.lines.sck = .unspecified := by decide

/-- V64. -/
theorem test_readAttr_d0 : (nextOf (exec (.readAttr 5) (live [] []))).ret = .value 40 := by decide

/-- V65. -/
theorem test_readAttr_reserved :
    (nextOf (exec (.readAttr 9) (live [] []))).refused = some .reservedOp := by decide

/-- V18. -/
theorem test_writeCmd_beats :
    let s := nextOf (exec (.writeCmd 0x36 (some ⟨16, 1⟩)) (live (oks 1) [(16, 0x60)]))
    (s.wire.take 8).map quadNumber = [0, 2, 0, 0, 3, 6, 0, 0] ∧
    singleBits (s.wire.drop 8) =
      [some false, some true, some true, some false, some false, some false, some false, some false] ∧
    s.log.map LogEntry.k = [16] := by decide

/-- V34, with k = 5. -/
theorem test_writeCmd_fails :
    let s := nextOf (exec (.writeCmd 0x11 none) (live [.status 9 5] []))
    s.err = some ⟨.tx, .writeCommand, some 9, some 0⟩ ∧ s.ret = .code .tx ∧
    s.log.map (fun e => (e.st, e.k)) = [(9, 5)] := by decide

/-- V24 at chunks of two bytes: three bytes go as 2 and 1. -/
theorem test_writeData_chunks :
    let s := nextOf (exec (.writeData ⟨16, 3⟩) (live (oks 3) [(16, 1), (17, 2), (18, 3)]))
    s.log.map (fun e => (e.t.tx, e.k)) = [([], 32), ([1, 2], 4), ([3], 2)] ∧ s.ret = .code .ok := by decide

/-- V29a at chunks of two bytes: the second chunk fails at offset 2. -/
theorem test_writeData_fails :
    let s := nextOf (exec (.writeData ⟨16, 6⟩) (live [.status 0 0, .status 0 0, .status 3 1] []))
    s.err = some ⟨.tx, .writeDataChunk, some 3, some 2⟩ ∧
    s.log.map (fun e => (e.st, e.k)) = [(0, 32), (0, 4), (3, 1)] := by decide

/-- V40 at 2 × 3 pixels: D[i*3+j] = S[j*2+i]. -/
theorem test_rotate_square :
    let s := nextOf (exec (.writeDataRotate ⟨0, 12⟩ ⟨16, 12⟩) (live (oks 7)
      [(1, 1), (2, 16), (3, 17), (4, 32), (5, 33), (6, 48), (7, 49), (8, 64), (9, 65), (10, 80), (11, 81)]))
    memBytes s.mem 16 12 = [0, 1, 32, 33, 64, 65, 16, 17, 48, 49, 80, 81] ∧
    s.log.map (fun e => e.t.tx.length) = [0, 2, 2, 2, 2, 2, 2] := by decide

/-- V43. -/
theorem test_rotate_fallback :
    let s := nextOf (exec (.writeDataRotate ⟨0, 8⟩ ⟨16, 4⟩) (live (oks 3)
      [(1, 1), (2, 16), (3, 17), (4, 32), (5, 33), (6, 48), (7, 49)]))
    s.log.map (fun e => e.t.tx) = [[], [0, 1, 32, 33], [16, 17, 48, 49]] ∧
    memBytes s.mem 16 4 = [16, 17, 48, 49] := by decide

/-- R121 and R28: the hardwired bits and the chosen channel. -/
theorem test_busInitialize :
    (nextOf (exec (.busInitialize 2 ⟨⟨4, 5, 6, 7⟩, 3, 8, false, false⟩) fresh)).buscfg =
      some ⟨⟨⟨4, 5, 6, 7⟩, 3, 8, true, true⟩, 5⟩ := by decide

/-- R123: mode 2 idles SCK high. -/
theorem test_deviceAttach :
    let s := nextOf (exec (.deviceAttach 2 ⟨8, 24, 0, 2, 1, true, true, 10, .single⟩)
      { fresh with bus := .ready, buscfg := some buscfg0 })
    s.devHandle = some 21 ∧ s.lines.sck = .high ∧ s.dev = .attached := by decide

/-- R125. -/
theorem test_deviceDetach :
    let s := nextOf (exec (.deviceDetach 21) (live [] []))
    s.dev = .detached ∧ s.devHandle = none ∧ s.devcfg = none ∧ s.buscfg = some buscfg0 := by decide

/-- R127. -/
theorem test_busFree :
    let s := nextOf (exec (.busFree 2) (nextOf (exec (.deviceDetach 21) (live [] []))))
    s.bus = .free ∧ s.buscfg = none ∧ s.lines.sck = .unspecified := by decide

/-- R91: ADDR_QUAD and CMD_QUAD select four lines under ABSOLUTE_QUAD; the data phase has the default width. -/
theorem test_pollingTransmit_widths :
    let s := nextOf (exec (.pollingTransmit 21 ⟨0x0200, 0xA5, 0, 0, 0, 0, [], 0⟩) (live (oks 1) []))
    (s.wire.take 2).map quadNumber = [10, 5] ∧ s.log.map LogEntry.k = [26] ∧ s.ret = .status 0 := by decide

/-- V15 at a limit of eight bytes. -/
theorem test_pollingTransmit_tooLong :
    let s := nextOf (exec (.pollingTransmit 21 ⟨0x00E2, 0, 0, 0, 0, 0, List.replicate 9 1, 72⟩) (live (oks 1) []))
    s.ret = .status 77 ∧ s.log = [] ∧ s.wire = [] := by decide

/-- V16. -/
theorem test_cmdFrame :
    (nextOf (exec (.cmdFrame 0x11 []) (live (oks 1) []))).wire.map quadNumber = [0, 2, 0, 0, 1, 1, 0, 0] := by
  decide

/-- V17. -/
theorem test_cmdFrame_followData :
    singleBits (serialize .followData devcfg0 (cmdFrame prm 0x11 [])) =
      ([0, 0, 0, 0, 0, 0, 1, 0, 0, 0, 0, 0, 0, 0, 0, 0, 0, 0, 0, 1, 0, 0, 0, 1, 0, 0, 0, 0, 0, 0, 0, 0].map
        fun n => some (n == 1)) := by decide

/-- V19. -/
theorem test_hsFrame :
    singleBits (nextOf (exec .hsFrame (live (oks 1) []))).wire =
      ([0, 0, 1, 1, 0, 0, 1, 0, 0, 0, 0, 0, 0, 0, 0, 0, 0, 0, 1, 0, 1, 1, 0, 0, 0, 0, 0, 0, 0, 0, 0, 0].map
        fun n => some (n == 1)) := by decide

/-- V19a. -/
theorem test_dataFrame :
    (nextOf (exec (.dataFrame [0xAB, 0xCD]) (live (oks 1) []))).wire.map quadNumber = [10, 11, 12, 13] := by
  decide

/-- V19d with k = 3. -/
theorem test_dataFrame_cut :
    let s := nextOf (exec (.dataFrame [0xAB, 0xCD]) (live [.status 5 3] []))
    s.wire.map quadNumber = [10, 11, 12] ∧ s.ret = .status 5 := by decide

/-- R159: after three beats of a frame that hangs. -/
theorem test_hang :
    let s := nextOf (exec (.dataFrame [0xAB, 0xCD]) (live [.hang 3] []))
    s.wire.map quadNumber = [10, 11, 12] ∧ s.seq = ⟨.idle, some .data, 12⟩ ∧ s.ret = .nothing ∧
    s.queue.length = 1 := by decide

/-! ### Witnesses: for each statement with hypotheses a state and operands that meet them, clause by clause -/

theorem live_attached (as : List TxAnswer) (m : Memory) : Attached (live as m) 21 devcfg0 buscfg0 :=
  ⟨rfl, rfl, rfl, rfl⟩

theorem devcfg0_headerBits : HeaderBits devcfg0 := ⟨rfl, rfl⟩

/-- A state with its next request pending. -/
def pending (p : Packet) : State := { live [] [] with inbox := [.packet p] }

theorem pending_ready (p : Packet) : ReadyToTake (pending p) := ⟨rfl, rfl, rfl, rfl⟩

/-- WRITE_DATA hangs in its handshake, and its buffer is held. -/
def hung : State := nextOf (exec (.writeData ⟨16, 4⟩) (live [.hang 0] []))

/-- V11. -/
def badDesc : Desc := ⟨0x0001, 0, 0, 0, 0, 0, [], 0⟩

theorem witness_ReservedEncodingsRefused :
    (∃ ops es, (pending (.host 0x13 {})).inbox = .packet (.host 0x13 ops) :: es ∧
      (0x13 : BitVec 8).toNat / 16 ≠ 0) ∧
    (∃ ops es, (pending (.host 0x0D {})).inbox = .packet (.host 0x0D ops) :: es ∧
      (0x0D : BitVec 8).toNat % 16 ∈ [0x0, 0x7, 0xD, 0xE, 0xF]) ∧
    (∃ ops es, (pending (.host 0x08 {})).inbox = .packet (.host 0x08 ops) :: es ∧
      (0x08 : BitVec 8).toNat ∈ [0x8, 0x9, 0xA, 0xB, 0xC]) ∧
    ReadyToTake (pending (.host 0x13 {})) ∧
    ((live [] []).life = .active ∧ (live [] []).cfg.isSome = true ∧ 9 ≤ (9 : BitVec 4).toNat) ∧
    (badDesc.wf1 && badDesc.wf2 && badDesc.wf3 && badDesc.wf5 prm.multiline devcfg0 && badDesc.wf6) = false :=
  ⟨⟨_, _, rfl, by decide⟩, ⟨_, _, rfl, by decide⟩, ⟨_, _, rfl, by decide⟩, pending_ready _,
    ⟨rfl, rfl, by decide⟩, by decide⟩

theorem witness_FrameKeyMatchesOneRow :
    prm.wcCmd = 0x02 ∧ prm.hsCmd = 0x32 ∧ prm.hsAddr = 0x002C00 ∧
    (0x0210020011FF : BitVec 48) &&& 0xFFFFFFFF00FF ≠ 0x021002000000 ∧
    (0x0210020011FF : BitVec 48) &&& 0xFFFFFFFFFFFF ≠ 0x000232002C00 ∧
    (0x0210020011FF : BitVec 48) &&& 0xFFFFFFFFFFFF ≠ 0x00E200000000 := by decide

theorem witness_SpiModeBits : (1 : Nat) ≤ 1 ∧ (0 : Nat) ≤ 1 := by decide

theorem witness_FramerDescriptorsPassChecks : HeaderBits devcfg0 := devcfg0_headerBits

theorem witness_PhaseBeatCounts : (cmdFrame prm 0x36 [0x60]).wf prm.multiline devcfg0 = true := by decide

theorem witness_SequencerFollowsPhases :
    (dataFrame [0xAB]).wf prm.multiline devcfg0 = true ∧
      (serialize prm.multiline devcfg0 (dataFrame [0xAB]))[1]? = some (nibbleBeat .data 0xB) := by decide

theorem witness_FrameBeatCounts :
    HeaderBits devcfg0 ∧ devcfg0.dummyBits = 0 ∧ devcfg0.defaultWidth = .single :=
  ⟨devcfg0_headerBits, rfl, rfl⟩

theorem witness_CmdFrameBeats :
    HeaderBits devcfg0 ∧ devcfg0.dummyBits = 0 ∧ devcfg0.defaultWidth = .single ∧ prm.wcCmd = 0x02 :=
  ⟨devcfg0_headerBits, rfl, rfl, rfl⟩

theorem witness_HandshakeBeats :
    HeaderBits devcfg0 ∧ devcfg0.dummyBits = 0 ∧ prm.hsCmd = 0x32 ∧ prm.hsAddr = 0x002C00 :=
  ⟨devcfg0_headerBits, rfl, rfl, rfl⟩

/-- Eight bytes are the most a transfer takes here. -/
theorem witness_FramesTransmitTheirDescriptor :
    Attached (live (oks 1) []) 21 devcfg0 buscfg0 ∧ HeaderBits devcfg0 ∧ Undisturbed (live (oks 1) []) ∧
    (∃ s', drawTx (live (oks 1) []) = (.status 0 0, s')) ∧
    (List.replicate 8 (0xAB : Byte)).length ≤ buscfg0.maxTransferSize :=
  ⟨live_attached _ _, devcfg0_headerBits, .inl rfl, ⟨_, rfl⟩, by decide⟩

/-- A frame answered 0 and one answered 5. -/
theorem witness_TransmitStatusAndBeats :
    Attached (live (oks 1) []) 21 devcfg0 buscfg0 ∧ Undisturbed (live (oks 1) []) ∧
    (dataFrame [0xAB]).wf (live (oks 1) []).params.multiline devcfg0 = true ∧
    (dataFrame [0xAB]).tx.length ≤ buscfg0.maxTransferSize ∧
    (∃ s', drawTx (live (oks 1) []) = (.status 0 0, s')) ∧
    ∃ s', drawTx (live [.status 5 1] []) = (.status 5 1, s') :=
  ⟨live_attached _ _, .inl rfl, by decide, by decide, ⟨_, rfl⟩, ⟨_, rfl⟩⟩

/-- Each of the four, the frame of POLLING_TRANSMIT with the attached handle. -/
theorem witness_HangNeverReturns :
    let s := live [.hang 1] []
    Attached s 21 devcfg0 buscfg0 ∧ Undisturbed s ∧
    (∀ i ∈ [Instr.pollingTransmit 21 (dataFrame [0xAB]), .cmdFrame 0x11 [], .hsFrame, .dataFrame [0xAB]],
      ∃ t, Instr.frame? s.params i = some t ∧ t.wf s.params.multiline devcfg0 = true ∧
        t.tx.length ≤ buscfg0.maxTransferSize) ∧
    (∃ s', drawTx s = (.hang 1, s')) ∧ s.fault = none ∧ s.refused = none ∧ paramsOk s.params = true ∧
    s.others = [] := by
  refine ⟨live_attached _ _, .inl rfl, ?_, ⟨_, rfl⟩, rfl, rfl, by decide, rfl⟩
  simp only [List.mem_cons, List.not_mem_nil, or_false]
  rintro i (rfl | rfl | rfl | rfl) <;> exact ⟨_, rfl, by decide, by decide⟩

theorem witness_TransmitNotSent :
    fresh.dev ≠ .attached ∧
    ((live [] []).dev = .attached ∧ (live [] []).devHandle = some 21 ∧ 20 ≠ 21) ∧ Undisturbed (live [] []) ∧
    (dataFrame (List.replicate 9 1)).wf prm.multiline devcfg0 = true ∧
    buscfg0.maxTransferSize < (dataFrame (List.replicate 9 1)).tx.length ∧ paramsOk prm = true :=
  ⟨by decide, by decide, .inl rfl, by decide, by decide, by decide⟩

theorem witness_NoFrameWhileDetached :
    fresh.dev = .detached ∧ ∃ t, exec (.pollingTransmit 21 (dataFrame [1])) fresh = .next t :=
  ⟨rfl, _, rfl⟩

theorem witness_LogAndWireOnlyGrow : ∃ t, step (pending (.host 0x06 {})) = .next t := ⟨_, rfl⟩

theorem witness_BusInitializeWritesBus :
    (∃ s', drawBusInit fresh = (0, s')) ∧ fresh.bus = .free ∧
    (∃ s', drawBusInit { fresh with oracle := ⟨[0x101], [], [], [], [], 0⟩ } = (0x101, s')) ∧
    (live [] []).bus ≠ .free :=
  ⟨⟨_, rfl⟩, rfl, ⟨_, rfl⟩, by decide⟩

/-- A bus that is READY, without a device. -/
def ready : State := { fresh with bus := .ready, buscfg := some buscfg0 }

theorem witness_DeviceAttachWritesDevice :
    ready.bus = .ready ∧ ready.dev = .detached ∧ (∃ s', drawAttach ready = (0, 21, s')) ∧
    (∃ s', drawAttach { ready with oracle := ⟨[], [(0x102, 0)], [], [], [], 0⟩ } = (0x102, 0, s')) ∧
    (fresh.bus ≠ .ready ∨ fresh.dev ≠ .detached) ∧
    ((live [] []).bus ≠ .ready ∨ (live [] []).dev ≠ .detached) :=
  ⟨rfl, rfl, ⟨_, rfl⟩, ⟨_, rfl⟩, by decide, by decide⟩

theorem witness_BusFreeClearsBus :
    ready.bus = .ready ∧ ready.dev = .detached ∧ (∃ s', drawBusFree ready = (0, s')) ∧
    (fresh.bus ≠ .ready ∨ fresh.dev ≠ .detached) ∧
    ((live [] []).bus ≠ .ready ∨ (live [] []).dev ≠ .detached) :=
  ⟨rfl, rfl, ⟨_, rfl⟩, by decide, by decide⟩

theorem witness_DeviceDetachClearsDevice :
    (∃ s', drawDetach (live [] []) = (0, s')) ∧ (live [] []).dev = .attached ∧
    (live [] []).devHandle = some 21 ∧ 20 ≠ 21 ∧ fresh.dev ≠ .attached :=
  ⟨⟨_, rfl⟩, rfl, rfl, by decide, by decide⟩

theorem witness_InitCreatesHandle :
    fresh.life ≠ .active ∧ fresh.bus = .free ∧ fresh.dev = .detached ∧ fresh.params.numDataLines = 4 ∧
    resolvePin prm 3 = some 30 ∧ resolvePin prm 4 = some 40 ∧ resolvePin prm 5 = some 50 ∧
    resolvePin prm 6 = some 60 ∧ resolvePin prm 7 = some 70 ∧ 0 < 1 ∧
    (some 1).getD prm.defaultCpol ≤ 1 ∧ (none : Option Nat).getD prm.defaultCpha ≤ 1 ∧
    ∃ s1 s2, drawBusInit fresh = (0, s1) ∧ drawAttach s1 = (0, 21, s2) :=
  ⟨by decide, rfl, rfl, rfl, by decide, by decide, by decide, by decide, by decide, by decide, by decide,
    by decide, _, _, rfl, rfl⟩

theorem witness_InitConfigurationErrors :
    fresh.life ≠ .active ∧ fresh.params.numDataLines = 4 ∧ fresh.seq = .idle ∧ fresh.held = [] ∧
    [4, 5, 6, 7, 3].length ≠ fresh.params.numDataLines ∧
    ([4, 5, 9, 7].length = 4 ∧ ∃ p ∈ 3 :: [4, 5, 9, 7], resolvePin fresh.params p = none) ∧
    ([4, 5, 6, 7].length = 4 ∧ (∀ p ∈ 3 :: [4, 5, 6, 7], (resolvePin fresh.params p).isSome = true) ∧
      1 < (some 2).getD fresh.params.defaultCpol) :=
  ⟨by decide, rfl, rfl, rfl, by decide, ⟨rfl, 9, by decide, by decide⟩, rfl, by decide, by decide⟩

theorem witness_InitBusErrors :
    (fresh.life ≠ .active ∧ fresh.params.numDataLines = 4 ∧ fresh.seq = .idle ∧ fresh.held = [] ∧
      [4, 5, 6, 7].length = 4 ∧
      (∀ p ∈ 3 :: [4, 5, 6, 7], (resolvePin fresh.params p).isSome = true) ∧
      (none : Option Nat).getD fresh.params.defaultCpol ≤ 1) ∧
    (∃ s1, drawBusInit { fresh with oracle := ⟨[0x101], [], [], [], [], 0⟩ } = (0x101, s1)) ∧
    (∃ s1 s2 s3, drawBusInit { fresh with oracle := ⟨[0], [(0x102, 0)], [], [0], [], 0⟩ } = (0, s1) ∧
      drawAttach s1 = (0x102, 0, s2) ∧ drawBusFree s2 = (0, s3)) ∧
    (fresh.bus = .free ∧ fresh.dev = .detached ∧ fresh.params.freeBusOnAttachFail = true ∧
      { prm with freeBusOnAttachFail := false }.freeBusOnAttachFail = false) ∧
    (ready.life ≠ .active ∧ ready.bus ≠ .free) :=
  ⟨⟨by decide, rfl, rfl, rfl, rfl, by decide, by decide⟩, ⟨_, rfl⟩, ⟨_, _, _, rfl, rfl, rfl⟩,
    ⟨rfl, rfl, rfl, rfl⟩, by decide, by decide⟩

theorem witness_WrongLifecycleFaults : fresh.life ≠ .active ∧ (live [] []).life = .active := by decide

/-- The first reserved selector and the last. -/
theorem witness_ReadAttrReturnsAttribute :
    fresh.life ≠ .active ∧ (live [] []).life = .active ∧ 9 ≤ (9 : BitVec 4).toNat ∧
      (live [] []).cfg = some ⟨2, 30, ⟨40, 50, 60, 70⟩, 40000000, 0, 0⟩ ∧ 9 ≤ (15 : BitVec 4).toNat := by
  decide

theorem witness_DeinitReleasesHandle :
    fresh.life ≠ .active ∧ (live [] []).life = .active ∧ (live [] []).bus = .ready ∧ (live [] []).dev = .attached ∧
    (live [] []).devHandle = some 21 ∧ (live [] []).cfg.isSome = true ∧
    ∃ s1 s2, drawDetach (live [] []) = (0, s1) ∧ drawBusFree s1 = (0, s2) :=
  ⟨by decide, rfl, rfl, rfl, rfl, rfl, _, _, rfl, rfl⟩

/-- Eight bytes are the most a transfer takes here; status 0 goes on, status 9 ends the request; and a state whose
answers are used up. -/
theorem witness_WriteCmdSendsOneFrame :
    (live [.status 0 0] []).life = .active ∧ Attached (live [.status 0 0] []) 21 devcfg0 buscfg0 ∧
    HeaderBits devcfg0 ∧ (live [.status 0 0] []).others = [] ∧
    (⟨16, 8⟩ : Buf) = (some ⟨16, 8⟩ : Option Buf).getD ⟨0, 0⟩ ∧ 8 ≤ buscfg0.maxTransferSize ∧
    (∃ s', drawTx (live [.status 0 0] []) = (.status 0 0, s')) ∧
    (∃ s', drawTx (live [.status 9 2] []) = (.status 9 2, s')) ∧ 9 ≠ 0 ∧ prm.txPolicy = .checked ∧
    ∃ s', drawTx (live [] []) = (pickTx (Config.freeTx 0) prm, s') :=
  ⟨rfl, live_attached _ _, devcfg0_headerBits, rfl, rfl, by decide, ⟨_, rfl⟩, ⟨_, rfl⟩, by decide, rfl, _, rfl⟩

theorem witness_WriteCmdTooLong :
    (live [] []).life = .active ∧ (live [] []).buscfg = some buscfg0 ∧ (live [] []).seq = .idle ∧
      (live [] []).held = [] ∧ buscfg0.maxTransferSize < (⟨16, 9⟩ : Buf).len := by decide

theorem oks_goOn (n : Nat) : GoesOn prm (oks n) := by
  intro a h
  rw [oks, List.mem_replicate] at h
  exact ⟨0, 0, h.2, .inl rfl⟩

/-- Three bytes take two chunks of at most two. -/
theorem witness_WriteDataChunkLaw :
    let s := live (oks 3) []
    s.life = .active ∧ Attached s 21 devcfg0 buscfg0 ∧ HeaderBits devcfg0 ∧ s.others = [] ∧
    paramsOk s.params = true ∧ s.params.chunkBytes ≤ buscfg0.maxTransferSize ∧
    (∃ o, drawTxs (1 + chunkCount s.params 3) s = (oks 3, o)) ∧ GoesOn s.params (oks 3) :=
  ⟨rfl, live_attached _ _, devcfg0_headerBits, rfl, by decide, by decide, ⟨_, rfl⟩, oks_goOn 3⟩

/-- The handshake fails, and the last chunk fails. -/
theorem witness_WriteDataStopsAtFailure :
    let s := live [.status 4 1] []
    let s' := live (oks 2 ++ [.status 4 1]) []
    (∃ o, drawTxs (0 + 1) s = (oks 0 ++ [.status 4 1], o)) ∧ (oks 0).length ≤ chunkCount prm 3 ∧
    (∃ o, drawTxs (2 + 1) s' = (oks 2 ++ [.status 4 1], o)) ∧ (oks 2).length ≤ chunkCount prm 3 ∧
    GoesOn prm (oks 0) ∧ GoesOn prm (oks 2) ∧ 4 ≠ 0 ∧ s.params.txPolicy = .checked ∧ s.life = .active ∧
    Attached s 21 devcfg0 buscfg0 ∧ s.others = [] ∧ paramsOk s.params = true :=
  ⟨⟨_, rfl⟩, by decide, ⟨_, rfl⟩, by decide, oks_goOn 0, oks_goOn 2, by decide, rfl, rfl, live_attached _ _,
    rfl, by decide⟩

theorem witness_WriteDataOfNoBytes :
    (live (oks 1) []).life = .active ∧ Attached (live (oks 1) []) 21 devcfg0 buscfg0 ∧
    HeaderBits devcfg0 ∧ (live (oks 1) []).others = [] ∧ ∃ s', drawTx (live (oks 1) []) = (.status 0 0, s') :=
  ⟨rfl, live_attached _ _, devcfg0_headerBits, rfl, _, rfl⟩

/-- Twelve bytes of 2 × 3 pixels, transposed into the twelve after them. -/
theorem witness_SquareTransposeLaw :
    let s := live (oks 7) [(1, 1)]
    Attached s 21 devcfg0 buscfg0 ∧ HeaderBits devcfg0 ∧ s.others = [] ∧ paramsOk s.params = true ∧
    s.life = .active ∧ s.params.chunkBytes ≤ buscfg0.maxTransferSize ∧ s.mem.wf = true ∧
    sharesByte ⟨0, 12⟩ ⟨12, 12⟩ = false ∧ (⟨0, 12⟩ : Buf).len = rotSquareBytes s.params ∧
    (∃ o, drawTxs (1 + chunkCount s.params 12) s = (oks 7, o)) ∧ GoesOn s.params (oks 7) :=
  ⟨live_attached _ _, devcfg0_headerBits, rfl, by decide, rfl, by decide, by decide, by decide, by decide,
    ⟨_, rfl⟩, oks_goOn 7⟩

/-- Two row groups, and none (V43, V48). -/
theorem witness_FallbackGatherLaw :
    let s := live (oks 3) []
    Attached s 21 devcfg0 buscfg0 ∧ HeaderBits devcfg0 ∧ s.life = .active ∧ s.others = [] ∧
    s.mem.wf = true ∧ sharesByte ⟨0, 8⟩ ⟨8, 4⟩ = false ∧ 4 ≠ 8 ∧ 4 ≠ 0 ∧ 4 ≤ buscfg0.maxTransferSize ∧
    (∃ o, drawTxs (1 + rotRows ⟨0, 8⟩ ⟨8, 4⟩) s = (oks 3, o)) ∧ GoesOn s.params (oks 3) ∧
    (sharesByte ⟨0, 4⟩ ⟨4, 8⟩ = false ∧ 8 ≤ buscfg0.maxTransferSize ∧ rotRows ⟨0, 4⟩ ⟨4, 8⟩ = 0 ∧
      ∃ o, drawTxs (1 + rotRows ⟨0, 4⟩ ⟨4, 8⟩) s = (oks 1, o)) :=
  ⟨live_attached _ _, devcfg0_headerBits, rfl, rfl, by decide, by decide, by decide, by decide, by decide,
    ⟨_, rfl⟩, oks_goOn 3, by decide, by decide, by decide, ⟨_, rfl⟩⟩

/-- The handshake fails, and the last group fails (V49b, V49c). -/
theorem witness_FallbackStopsAtFailure :
    let s := live [.status 6 1] []
    let s' := live (oks 2 ++ [.status 6 1]) []
    (∃ o, drawTxs (0 + 1) s = (oks 0 ++ [.status 6 1], o)) ∧ (oks 0).length ≤ rotRows ⟨0, 8⟩ ⟨8, 4⟩ ∧
    (∃ o, drawTxs (2 + 1) s' = (oks 2 ++ [.status 6 1], o)) ∧ (oks 2).length ≤ rotRows ⟨0, 8⟩ ⟨8, 4⟩ ∧
    GoesOn prm (oks 0) ∧ GoesOn prm (oks 2) ∧ 6 ≠ 0 ∧ s.params.txPolicy = .checked ∧
    sharesByte ⟨0, 8⟩ ⟨8, 4⟩ = false ∧ s.mem.wf = true ∧ s.others = [] :=
  ⟨⟨_, rfl⟩, by decide, ⟨_, rfl⟩, by decide, oks_goOn 0, oks_goOn 2, by decide, rfl, by decide, by decide, rfl⟩

/-- The handshake fails, and the last chunk of the transposed image fails. -/
theorem witness_SquareStopsAtFailure :
    let s := live [.status 6 1] []
    let s' := live (oks 6 ++ [.status 6 1]) []
    (∃ o, drawTxs (0 + 1) s = (oks 0 ++ [.status 6 1], o)) ∧ (oks 0).length ≤ chunkCount prm 12 ∧
    (∃ o, drawTxs (6 + 1) s' = (oks 6 ++ [.status 6 1], o)) ∧ (oks 6).length ≤ chunkCount prm 12 ∧
    GoesOn prm (oks 0) ∧ GoesOn prm (oks 6) ∧ 6 ≠ 0 ∧ s.params.txPolicy = .checked ∧
    paramsOk s.params = true ∧ sharesByte ⟨0, 12⟩ ⟨12, 12⟩ = false ∧ 12 = rotSquareBytes s.params ∧
    s.mem.wf = true ∧ s.others = [] ∧ Attached s 21 devcfg0 buscfg0 ∧ s.life = .active :=
  ⟨⟨_, rfl⟩, by decide, ⟨_, rfl⟩, by decide, oks_goOn 0, oks_goOn 6, by decide, rfl, by decide, by decide,
    by decide, by decide, rfl, live_attached _ _, rfl⟩

/-- The handshake hangs, and the last frame hangs, of WRITE_DATA, of the square path and of the fallback. -/
theorem witness_FramerRequestsHang :
    let s := live [.hang 2] []
    Attached s 21 devcfg0 buscfg0 ∧ s.life = .active ∧ s.others = [] ∧ paramsOk s.params = true ∧
    s.params.chunkBytes ≤ buscfg0.maxTransferSize ∧ s.mem.wf = true ∧
    (∃ s', drawTx s = (.hang 2, s')) ∧
    (∃ o, drawTxs (0 + 1) s = (oks 0 ++ [.hang 2], o)) ∧ GoesOn s.params (oks 0) ∧
    (∃ o, drawTxs (2 + 1) (live (oks 2 ++ [.hang 2]) []) = (oks 2 ++ [.hang 2], o)) ∧ GoesOn prm (oks 2) ∧
    2 ≤ chunkCount prm 3 ∧
    (∃ o, drawTxs (6 + 1) (live (oks 6 ++ [.hang 2]) []) = (oks 6 ++ [.hang 2], o)) ∧ GoesOn prm (oks 6) ∧
    sharesByte ⟨0, 12⟩ ⟨12, 12⟩ = false ∧ 12 = rotSquareBytes prm ∧ 6 ≤ chunkCount prm 12 ∧
    sharesByte ⟨0, 8⟩ ⟨8, 4⟩ = false ∧ 2 ≤ rotRows ⟨0, 8⟩ ⟨8, 4⟩ :=
  ⟨live_attached _ _, rfl, rfl, by decide, by decide, by decide, ⟨_, rfl⟩, ⟨_, rfl⟩, oks_goOn 0, ⟨_, rfl⟩,
    oks_goOn 2, by decide, ⟨_, rfl⟩, oks_goOn 6, by decide, by decide, by decide, by decide, by decide⟩

/-- V49d, V49e, V41, V42, V49, V49a. -/
theorem witness_RotateChecks :
    (live [] []).life = .active ∧ (live [] []).buscfg = some buscfg0 ∧ (live [] []).seq = .idle ∧
    (live [] []).held = [] ∧
    sharesByte ⟨0, 8⟩ ⟨0, 8⟩ = true ∧ sharesByte ⟨0, 8⟩ ⟨7, 4⟩ = true ∧
    (sharesByte ⟨0, 24⟩ ⟨24, 24⟩ = false ∧ 24 ≠ rotSquareBytes (live [] []).params) ∧
    (sharesByte ⟨0, 0⟩ ⟨0, 0⟩ = false ∧ 0 ≠ rotSquareBytes (live [] []).params) ∧
    (0 ≠ 4 ∧ (⟨4, 0⟩ : Buf).len = 0) ∧
    (sharesByte ⟨0, 18⟩ ⟨18, 9⟩ = false ∧ buscfg0.maxTransferSize < (⟨18, 9⟩ : Buf).len) := by decide

theorem witness_NoAccessOutOfBounds :
    ∃ t, exec (.readAttr 0) (setFault .bounds (live [] [])) = .next t ∧ t.fault = some .bounds :=
  ⟨_, rfl, rfl⟩

theorem witness_OnlyRotateWritesMemory :
    let s := live [.status 0 0, .status 1 0] [(0, 7)]
    ∃ t, exec (.writeDataRotate ⟨0, 8⟩ ⟨16, 4⟩) s = .next t ∧ memByte t.mem 16 ≠ memByte s.mem 16 := by
  exact ⟨_, rfl, by decide⟩

/-- With another thread that writes one byte elsewhere. -/
def disturbed (w : Nat) (e : Event) : State := { live (oks 7) [] with others := [⟨w, e⟩] }

/-- A request at the first beat and at the end of a first frame, and a write to the last byte of a buffer; and a request
at the end of a frame that drives no beat and is answered status 4: the other thread's request is refused, or comes
one point later than this request has. -/
theorem witness_ConcurrentUseInsideRequestRefused :
    let s := disturbed 0 (.packet (.host 0x02 {}))
    Attached s 21 devcfg0 buscfg0 ∧ s.life = .active ∧
    Concurrent [⟨16, 4⟩] (.packet (.host 0x02 {})) ∧ Concurrent [⟨16, 4⟩] (.hostWrite 19 [1]) ∧
    (∃ s', drawTx s = (.status 0 0, s')) ∧ 4 ≤ buscfg0.maxTransferSize ∧
    Concurrent [⟨0, 0⟩] (.packet (.host 0x02 {})) ∧
    8 ≤ beatsUnder (.status 0 0) (serialize prm.multiline devcfg0 (cmdFrame prm 0x11 [])).length ∧
    32 ≤ beatsUnder (.status 0 0) (serialize prm.multiline devcfg0 (hsFrame prm)).length ∧
    0 ≤ beatsUnder (.status 4 0) (serialize prm.multiline devcfg0 (cmdFrame prm 0x11 [])).length ∧
    sharesByte ⟨0, 8⟩ ⟨16, 4⟩ = false ∧ sharesByte ⟨0, 12⟩ ⟨12, 12⟩ = false ∧ 12 = rotSquareBytes prm ∧
    5 < prm.rotW * prm.rotH ∧
    (let noBeat (w : Nat) : State := { disturbed w (.packet (.host 0x02 {})) with oracle := (live [.status 4 0] []).oracle }
    (nextOf (exec (.writeCmd 0x11 none) (noBeat 0))).refused = some .concurrent ∧
    (nextOf (exec (.writeCmd 0x11 none) (noBeat 1))).ret = .code .tx) :=
  ⟨⟨rfl, rfl, rfl, rfl⟩, rfl, .inl ⟨_, rfl⟩, .inr ⟨_, _, ⟨16, 4⟩, rfl, by decide, by decide⟩, ⟨_, rfl⟩, by decide,
    .inl ⟨_, rfl⟩, by decide, by decide, by decide, by decide, by decide, by decide, by decide, by decide, by decide⟩

/-- Refused inside, at the third copy of the square transpose; and a byte written elsewhere meanwhile. -/
theorem witness_OtherThreadsChangeMemoryAlone :
    let s := disturbed 3 (.hostWrite 40 [1])
    let t := nextOf (exec (.writeDataRotate ⟨0, 12⟩ ⟨16, 12⟩) s)
    let r := nextOf (exec (.writeDataRotate ⟨0, 12⟩ ⟨16, 12⟩) (disturbed 3 (.hostWrite 11 [1])))
    Instr.Framer (.writeDataRotate ⟨0, 12⟩ ⟨16, 12⟩) ∧ s.mem.wf = true ∧ t.refused ≠ some .concurrent ∧
    t.ret = .code .ok ∧ t.others = [] ∧ t.mem = [(40, 1)] ∧ r.refused = some .concurrent ∧ r.log = [] ∧ r.others.length = 1 :=
  ⟨trivial, rfl, by decide, by decide, by decide, by decide, by decide, by decide, by decide⟩

theorem witness_FramerRequestsFrame :
    (live (oks 1) []).others = [] ∧ ¬ OthersWrite (live (oks 1) []) 16 ∧
    (∃ t, exec (.writeCmd 0x11 none) (live (oks 1) []) = .next t) ∧
    (∃ t, exec (.writeData ⟨16, 3⟩) (live (oks 3) []) = .next t) ∧
    ∃ t, exec (.writeDataRotate ⟨0, 8⟩ ⟨16, 4⟩) (live (oks 3) []) = .next t :=
  ⟨rfl, fun ⟨_, h, _⟩ => (List.not_mem_nil h).elim, ⟨_, rfl⟩, ⟨_, rfl⟩, ⟨_, rfl⟩⟩

theorem witness_TransmitsFrame :
    let s := live (oks 1) []
    ∀ i ∈ [Instr.pollingTransmit 21 (dataFrame [1]), .cmdFrame 0x11 [], .hsFrame, .dataFrame [1]],
      (Instr.frame? s.params i).isSome = true ∧ Undisturbed s ∧ ∃ t, exec i s = .next t := by
  intro s
  simp only [List.mem_cons, List.not_mem_nil, or_false]
  rintro i (rfl | rfl | rfl | rfl) <;> exact ⟨rfl, .inl rfl, exec_next _ _⟩

theorem witness_LifecycleFrame :
    (∃ t, exec (.init 2 3 [4, 5, 6, 7] 1 none none) fresh = .next t) ∧
    (∃ t, exec .deinit (live [] []) = .next t) ∧
    (∃ t, exec (.busInitialize 2 ⟨⟨4, 5, 6, 7⟩, 3, 8, true, true⟩) fresh = .next t) ∧
    (∃ t, exec (.deviceAttach 2 devcfg0) ready = .next t) ∧
    (∃ t, exec (.deviceDetach 21) (live [] []) = .next t) ∧
    (∃ t, exec (.busFree 2) ready = .next t) ∧
    ∃ t, exec (.readAttr 8) (live [] []) = .next t :=
  ⟨⟨_, rfl⟩, ⟨_, rfl⟩, ⟨_, rfl⟩, ⟨_, rfl⟩, ⟨_, rfl⟩, ⟨_, rfl⟩, ⟨_, rfl⟩⟩

theorem witness_ErrorsAreRecoverable :
    Instr.ReturnsCode (.writeCmd 0x11 none) ∧ (live [.status 9 0] []).queue = [] ∧
    safe (live [.status 9 0] []) = true ∧ Code.tx ≠ .ok ∧
    ∃ t, exec (.writeCmd 0x11 none) (live [.status 9 0] []) = .next t ∧ t.ret = .code .tx :=
  ⟨trivial, rfl, rfl, by decide, _, rfl, rfl⟩

/-- A request that returns OK, and one that returns E_TX. -/
theorem witness_ReturnCodeAgreesWithErr :
    Instr.ReturnsCode (.writeCmd 0x11 none) ∧
    (∃ t, exec (.writeCmd 0x11 none) (live (oks 1) []) = .next t ∧ t.ret = .code .ok) ∧
    ∃ t, exec (.writeCmd 0x11 none) (live [.status 9 0] []) = .next t ∧ t.ret = .code .tx :=
  ⟨trivial, ⟨_, rfl, rfl⟩, ⟨_, rfl, rfl⟩⟩

/-- Two machines whose histories differ: both return OK, and one fails in the second chunk. -/
theorem witness_FramingIsDeterministic :
    let s := live (oks 3) []
    let s' := nextOf (exec .hsFrame (live (oks 4) []))
    let f := nextOf (exec .hsFrame (live (oks 3 ++ [.status 4 1]) []))
    Instr.Framer (.writeData ⟨16, 3⟩) ∧ s.mem.wf = true ∧
    s.params = s'.params ∧ s.mem = s'.mem ∧ s.buscfg = s'.buscfg ∧ s.log ≠ s'.log ∧
    s.params = f.params ∧ s.mem = f.mem ∧ s.buscfg = f.buscfg ∧
    (nextOf (exec (.writeData ⟨16, 3⟩) s)).ret = .code .ok ∧
    (nextOf (exec (.writeData ⟨16, 3⟩) s')).ret = .code .ok ∧
    (nextOf (exec (.writeData ⟨16, 3⟩) f)).ret = .code .tx :=
  ⟨trivial, rfl, by decide, by decide, by decide, by decide, by decide, by decide, by decide, by decide,
    by decide, by decide⟩

theorem witness_StepRunsDecodedInstruction :
    ReadyToTake (pending (.host 0x06 {})) ∧ (pending (.host 0x06 {})).inbox = .packet (.host 0x06 {}) :: [] ∧
      decode (.host 0x06 {}) = .ok (.readAttr 0) :=
  ⟨pending_ready _, rfl, by decide⟩

theorem witness_MarksAreSticky :
    (setFault .aliased fresh).fault = some .aliased ∧
    ((setRefused .param fresh).fault = none ∧ (setRefused .param fresh).refused = some .param) := by decide

/-- A write of one byte at the last byte of the held buffer, and a request. -/
theorem witness_ConcurrentUseRefused :
    hung.fault = none ∧ hung.refused = none ∧ paramsOk hung.params = true ∧ hung.seq.req ≠ .idle ∧
    Concurrent hung.held (.hostWrite 19 [1]) ∧ Concurrent hung.held (.packet (.host 0x02 {})) :=
  ⟨by decide, by decide, by decide, by decide, .inr ⟨_, _, ⟨16, 4⟩, rfl, by decide, by decide⟩, .inl ⟨_, rfl⟩⟩

theorem witness_IllFormedParametersRefused :
    fresh.fault = none ∧ fresh.refused = none ∧ { prm with chunkBytes := 0 }.chunkBytes = 0 ∧
    { prm with maxXferBytes := 1 }.maxXferBytes < { prm with maxXferBytes := 1 }.chunkBytes ∧
    statusMem 0 (.only [1, 77]) = false := by decide

theorem witness_IdleAndHostWrites :
    ReadyToTake (live [] []) ∧ (live [] []).inbox = [] ∧
    ReadyToTake { live [] [] with inbox := [.hostWrite 16 [1]] } :=
  ⟨⟨rfl, rfl, by decide, rfl⟩, rfl, rfl, rfl, by decide, rfl⟩

theorem live_machineInv (as : List TxAnswer) : MachineInv (live as []) where
  mem := rfl
  handle := by simp [live]
  devcfg := by simp [live]
  buscfg := by simp [live]
  attach := by simp [live]
  hardDev := by rintro dc ⟨⟩; exact ⟨rfl, rfl⟩
  hardBus := by rintro bc ⟨⟩; exact ⟨rfl, rfl⟩
  clock := by rintro dc ⟨⟩; rfl
  rest := fun _ _ => ⟨rfl, rfl, rfl, rfl⟩
  flight := .inl rfl
  err := by rintro e ⟨⟩

/-- The machine after INIT, with a WRITE_CMD pending. -/
def driven : State := { live (oks 1) [] with inbox := [.packet (.host 0x03 {})] }

theorem driven_lifecycleInv : LifecycleInv driven where
  active := by simp [driven, live]
  attach := by simp [driven, live]
  cfg := by simp [driven, live]
  config := by rintro c - ⟨⟩; exact ⟨by decide, rfl, rfl⟩

theorem driven_hostDriven : HostDriven driven := by
  intro e he
  rw [show driven.inbox = [.packet (.host 0x03 {})] from rfl, List.mem_singleton] at he
  exact .inl ⟨_, _, he⟩

theorem driven_machineInv : MachineInv driven :=
  have h := live_machineInv (oks 1)
  ⟨h.mem, h.handle, h.devcfg, h.buscfg, h.attach, h.hardDev, h.hardBus, h.clock, h.rest, h.flight, h.err⟩

theorem witness_StepKeepsMachineInv : MachineInv driven ∧ ∃ t, step driven = .next t :=
  ⟨driven_machineInv, _, rfl⟩

theorem witness_StepKeepsLifecycleInv :
    HostDriven driven ∧ LifecycleInv driven ∧ ∃ t, step driven = .next t :=
  ⟨driven_hostDriven, driven_lifecycleInv, _, rfl⟩

theorem witness_NoUnwrittenReadNoIllFormedFrame :
    (HostDriven driven ∧ LifecycleInv driven ∧ MachineInv driven ∧ driven.params.cmdBits = 8 ∧
      driven.params.addrBits = 24 ∧ ∃ t, step driven = .next t) ∧
    ∃ t, exec (.writeCmd 0x11 none) (setRefused .descriptor (live (oks 1) [])) = .next t ∧
      t.refused = some .descriptor :=
  ⟨⟨driven_hostDriven, driven_lifecycleInv, driven_machineInv, rfl, rfl, _, rfl⟩, _, rfl, rfl⟩

theorem witness_StepKeepsWireInv :
    HostDriven driven ∧ LifecycleInv driven ∧ MachineInv driven ∧ WireInv driven ∧
      ∃ t, step driven = .next t :=
  ⟨driven_hostDriven, driven_lifecycleInv, driven_machineInv, ⟨0, rfl⟩, _, rfl⟩

end Sys2Proof.Tests
end

section
/-! SUPPORT. The step of a machine that is ready to take a request: what it fetches (00_scope.md R13,
20_memory.md R70). -/

namespace Sys2Proof.Machine

/-- Past the marks, the parameters' check and a request in progress, a step looks at the host's next action. -/
theorem fetch_of_readyToTake {s : State} (h : ReadyToTake s) : fetch s = fetchIdle s := by
  obtain ⟨hfault, hrefused, hparams, hidle⟩ := h
  simp [fetch, hfault, hrefused, hparams, hidle]

theorem fetchIdle_of_packet {s : State} {p : Packet} {es : List Event} (h : s.inbox = .packet p :: es) :
    fetchIdle s = fetchPacket p { s with inbox := es } := by
  simp [fetchIdle, h]

theorem fetchPacket_of_decode_ok {p : Packet} {i : Instr} (h : decode p = .ok i) (s : State) :
    fetchPacket p s = .run i s := by
  simp [fetchPacket, h]

theorem step_of_fetch_run {s u : State} {i : Instr} (h : fetch s = .run i u) : step s = exec i u := by
  simp [step, h]

end Sys2Proof.Machine

open Sys2Proof.Machine

/-- Settles O48: the step fetches its next packet, which decodes to the instruction it runs. -/
theorem stepRunsDecodedInstruction : Obligations.StepRunsDecodedInstruction := by
  intro s p i es hready hinbox hdecode
  apply step_of_fetch_run
  calc fetch s = fetchIdle s := fetch_of_readyToTake hready
    _ = fetchPacket p { s with inbox := es } := fetchIdle_of_packet hinbox
    _ = .run i { s with inbox := es } := fetchPacket_of_decode_ok hdecode _

end

section
/-! SUPPORT. What every single step and every single call keeps. -/

namespace Sys2Proof.Machine

variable {α : Type}

/-- What holds before a step holds after it, if it holds after a refusal, a host write, the passing of time and
the instruction the step runs. -/
theorem step_keeps {P : State → Prop} {s t : State} (h : step s = .next t) (hs : P s)
    (refused : ∀ r u, P u → P (setRefused r u))
    (write : ∀ a bs es, s.inbox = .hostWrite a bs :: es → P (hostWrite a bs { s with inbox := es }))
    (passed : ∀ u, TimePassed s u → P u)
    (runs : ∀ p i es, safe s = true → inProgress s = false → s.inbox = .packet p :: es → decode p = .ok i →
      exec i { s with inbox := es } = .next t → P t) : P t := by
  obtain ⟨hf, hr, ⟨r, -, rfl⟩ | rfl | ⟨-, -, a, bs, es, hin, rfl⟩ | ⟨-, -, hpass | ⟨u, hpass, rfl⟩⟩ |
    ⟨-, hidle, p, i, es, hin, hdec, hexec⟩⟩ := step_next h
  · exact refused r s hs
  · exact hs
  · exact write a bs es hin
  · exact passed t hpass
  · exact refused _ u (passed u hpass)
  · exact runs p i es (by simp [safe, hf, hr]) hidle hin hdec hexec

/-- Two accounts of the ends of one call are one. -/
theorem Ends.and {P P' : State → Prop} {Q Q' : α → State → Prop} {c : Call α} (h : Ends P Q c)
    (h' : Ends P' Q' c) : Ends (fun s => P s ∧ P' s) (fun a s => Q a s ∧ Q' a s) c := by
  cases c with
  | ret a s => exact ⟨h, h'⟩
  | stop s => exact ⟨h, h'⟩

/-- Of a call nothing need be said. -/
theorem ends_true (c : Call α) : Ends (fun _ => True) (fun _ _ => True) c := by
  cases c <;> trivial

theorem readField_keeps {P : State → Prop} {s : State} (f : Option α) (hf : ∀ f, P (setFault f s)) (hs : P s) :
    Ends P (fun _ u => P u) (readField f s) := by
  refine (readField_ends f s).imp ?_ ?_
  · rintro u ⟨-, rfl⟩
    exact hf _
  · rintro - u ⟨-, rfl⟩
    exact hs

theorem requireActive_keeps {P : State → Prop} {s : State} (hf : ∀ f, P (setFault f s)) (hs : P s) :
    Ends P (fun _ u => P u) (requireActive s) := by
  refine (requireActive_ends s).imp ?_ ?_
  · rintro u ⟨-, rfl⟩
    exact hf _
  · rintro - u ⟨-, rfl⟩
    exact hs

theorem attachedHandle_keeps {P : State → Prop} {s : State} (hf : ∀ f, P (setFault f s)) (hs : P s) :
    Ends P (fun _ u => P u) (attachedHandle s) := by
  refine (attachedHandle_ends s).imp ?_ ?_
  · rintro u (⟨-, rfl⟩ | ⟨-, -, rfl⟩)
    · exact hf _
    · exact hf _
  · rintro - u ⟨-, -, rfl⟩
    exact hs

end Sys2Proof.Machine
end

section
/-! SUPPORT. The machine's invariant (10_state.md R21 to R28, R40 to R46): the updates of the framer keep it but for
the position of the request, a request that is over keeps no position, and the bus manager keeps all of it. -/

namespace Sys2Proof.Machine

variable {α : Type}

/-! ### The machine's invariant under the single updates -/

@[simp] theorem safe_setFault (f : Fault) (s : State) : safe (setFault f s) = false := rfl

@[simp] theorem safe_setRefused (r : Refusal) (s : State) : safe (setRefused r s) = false := by
  simp [safe]

/-- The machine's invariant but for the position of the request in progress and its buffers. -/
def InvButPosition (s : State) : Prop := MachineInv (setReqIdle s)

theorem MachineInv.butPosition {s : State} (h : MachineInv s) : InvButPosition s :=
  { h with
    rest := fun hsafe hq => by
      obtain ⟨hseq, hdesc, -, hd⟩ := h.rest hsafe hq
      exact ⟨by simp [hseq, Seq.idle], hdesc, rfl, hd⟩ }

/-- No position is kept, and no buffer. -/
def Unheld (s : State) : Prop := s.seq.req = .idle ∧ s.held = []

/-- A state that is neither marked nor has a frame in flight keeps no position and no buffer. -/
def Settled (s : State) : Prop := safe s = true → s.queue = [] → Unheld s

theorem setReqIdle_of_unheld {s : State} (h : Unheld s) : setReqIdle s = s := by
  obtain ⟨hreq, hheld⟩ := h
  unfold setReqIdle
  rw [← hreq, ← hheld]

theorem InvButPosition.machineInv {s : State} (h : InvButPosition s) (hs : Settled s) : MachineInv s :=
  have h' : MachineInv (setReqIdle s) := h
  { h' with rest := fun hsafe hq => setReqIdle_of_unheld (hs hsafe hq) ▸ h'.rest hsafe hq }

theorem MachineInv.setFault {s : State} (h : MachineInv s) (f : Fault) : MachineInv (setFault f s) :=
  { h with rest := fun hsafe => by simp at hsafe }

theorem MachineInv.setRefused {s : State} (r : Refusal) (h : MachineInv s) : MachineInv (setRefused r s) :=
  { h with rest := fun hsafe => by simp at hsafe }

theorem MachineInv.clearErr {s : State} (h : MachineInv s) : MachineInv (clearErr s) :=
  { h with err := fun _ he => by simp at he }

theorem MachineInv.setRet {s : State} (r : Ret) (h : MachineInv s) : MachineInv (setRet r s) := { h with }

/-- Memory may be any other in its canonical form, and other threads' actions may come. -/
theorem MachineInv.withMem {s : State} {m : Memory} (as : List Arrival) (h : MachineInv s) (hm : m.wf = true) :
    MachineInv { s with mem := m, others := as } := { h with mem := hm }

theorem MachineInv.passed {s u : State} (hu : TimePassed s u) (h : MachineInv s) : MachineInv u := by
  obtain ⟨pre, hcame⟩ := hu
  rw [hcame.frame]
  exact h.withMem _ (hcame.wf h.mem)

theorem InvButPosition.setFault {s : State} (f : Fault) (h : InvButPosition s) :
    InvButPosition (setFault f s) := MachineInv.setFault h f

theorem InvButPosition.setRefused {s : State} (r : Refusal) (h : InvButPosition s) :
    InvButPosition (setRefused r s) := MachineInv.setRefused r h

theorem InvButPosition.raise {s : State} {c : Code} (op : OpName) (st off : Option Nat) (hc : c ≠ .ok)
    (h : InvButPosition s) : InvButPosition (raise c op st off s) :=
  have h' : MachineInv (setReqIdle s) := h
  { h' with
    rest := fun hsafe hq => by
      obtain ⟨-, hdesc, -, hd⟩ := h'.rest hsafe hq
      exact ⟨rfl, hdesc, rfl, hd⟩
    err := fun e he => by
      obtain rfl : _ = e := Option.some.inj he
      exact hc }

theorem InvButPosition.passed {s u : State} (hu : TimePassed s u) (h : InvButPosition s) :
    InvButPosition u := by
  obtain ⟨pre, hcame⟩ := hu
  rw [hcame.frame]
  exact MachineInv.withMem _ h (hcame.wf h.mem)

/-- A frame that was answered leaves the lines at rest, with SCK at its idle level. -/
theorem InvButPosition.sent {t : Desc} {st : Nat} {s u : State} (hu : FrameSent t st s u)
    (h : InvButPosition s) : InvButPosition u := by
  obtain ⟨dc, ⟨-, -, hdc, -, -⟩, k, o, v, -, hv, rfl⟩ := hu
  have hdc' : v.devcfg = some dc := by rw [hv.eq]; exact hdc
  have hinv : MachineInv (Machine.setReqIdle v) := h.passed hv
  exact
    { hinv with
      clock := fun dc' hd => by
        obtain rfl : dc = dc' := Option.some.inj (hdc'.symm.trans hd)
        rfl
      rest := fun _ _ => ⟨rfl, rfl, rfl, rfl⟩
      flight := .inl rfl }

/-- A frame that hangs is the one descriptor in the queue, and SCK is at its idle level after each of its
beats. -/
theorem InvButPosition.hangs {t : Desc} {s u : State} (hu : FrameHangs t s u)
    (h : InvButPosition s) : InvButPosition u := by
  obtain ⟨dc, ⟨-, -, hdc, -, -⟩, j, ph, b, l, o, v, -, hv, rfl, hl⟩ := hu
  have hdc' : v.devcfg = some dc := by rw [hv.eq]; exact hdc
  have hinv : MachineInv (Machine.setReqIdle v) := h.passed hv
  exact
    { hinv with
      clock := fun dc' hd => by
        obtain rfl : dc = dc' := Option.some.inj (hdc'.symm.trans hd)
        rcases hl with hl | rfl
        · exact hl
        · exact h.clock dc hdc
      rest := fun _ hq => absurd hq (List.cons_ne_nil t [])
      flight := .inr ⟨t, rfl, rfl⟩ }

/-- Every single update of the framer keeps the invariant but for the position. -/
theorem framerKeeps_invButPosition : FramerKeeps InvButPosition InvButPosition where
  fault f _ _ _ h := h.setFault f
  unwritten _ _ h := h.setFault .unwritten
  refused r _ _ h := h.setRefused r
  illFormed _ _ _ _ _ _ h := h.setRefused .descriptor
  raise _ op st off _ hc h := h.raise op st off hc
  clearErr _ h := MachineInv.clearErr h
  setPos _ _ _ h := h
  setHeld _ _ h := h
  setReqIdle _ h := h
  sent _ _ _ _ hu h := h.sent hu
  passed _ _ hu h := h.passed hu
  hangs _ _ _ hu h := h.hangs hu
  cut _ _ _ hu h := (h.hangs hu).setRefused .concurrent

theorem exec_keeps_invButPosition {i : Instr} {s t : State} (hi : Instr.Sends i) (hs : InvButPosition s)
    (h : exec i s = .next t) : InvButPosition t :=
  exec_keeps_of_sends framerKeeps_invButPosition (fun r _ hu => MachineInv.setRet r hu) hs
    (fun _ _ _ u _ _ _ hu => MachineInv.withMem u.others hu (memSetBytes_wf _ _ hu.mem))
    (fun _ _ _ => hs.setRefused .descriptor) hi h

/-! ### A request that returns keeps no position -/

/-- Where a request of the framer ends early, it is marked, hangs, or has raised an error and kept no
position. -/
theorem framerKeeps_settled : FramerKeeps (fun _ => True) Settled where
  fault f s _ _ _ hsafe := by simp at hsafe
  unwritten s _ _ hsafe := by simp at hsafe
  refused r s _ _ hsafe := by simp at hsafe
  illFormed _ _ s _ _ _ _ hsafe := by simp at hsafe
  raise _ _ _ _ _ _ _ _ _ := ⟨rfl, rfl⟩
  clearErr _ _ := trivial
  setPos _ _ _ _ := trivial
  setHeld _ _ _ := trivial
  setReqIdle _ _ := trivial
  sent _ _ _ _ _ _ := trivial
  passed _ _ _ _ := trivial
  hangs t s u hu _ _ hq := by
    obtain ⟨dc, -, j, ph, b, l, o, v, -, -, rfl, -⟩ := hu
    exact absurd hq (List.cons_ne_nil t [])
  cut _ _ _ _ _ hsafe := by simp at hsafe

/-- A call that keeps no position where it returns. -/
abbrev ReturnsUnheld (c : Call α) : Prop := Ends (fun _ => True) (fun _ u => Unheld u) c

theorem ReturnsUnheld.andThen {β : Type} {c : Call α} {f : α → State → Call β}
    (hf : ∀ a u, ReturnsUnheld (f a u)) : ReturnsUnheld (andThen c f) :=
  Ends.andThen (ends_true c) fun a u _ => hf a u

theorem returnsUnheld_writeCmdBody (c : BitVec 8) (b : Buf) (s : State) :
    ReturnsUnheld (writeCmdBody c b s) := by
  refine .andThen fun bc u => ?_
  split
  · trivial
  · exact .andThen fun _ _ => .andThen fun _ _ => ⟨rfl, rfl⟩

theorem returnsUnheld_writeDataBody (op : SeqOp) (at' : Pos → Pos) (b : Buf) (s : State) :
    ReturnsUnheld (writeDataBody op at' b s) :=
  .andThen fun _ _ => .andThen fun _ _ => ⟨rfl, rfl⟩

theorem returnsUnheld_rotateBody (src dst : Buf) (s : State) : ReturnsUnheld (rotateBody src dst s) := by
  unfold rotateBody
  split
  · trivial
  · split
    · unfold rotateSquare
      split
      · trivial
      · exact .andThen fun _ u => returnsUnheld_writeDataBody _ _ dst u
    · unfold rotateFallback
      split
      · trivial
      · refine .andThen fun bc u => ?_
        split
        · trivial
        · exact .andThen fun _ _ => .andThen fun _ _ => ⟨rfl, rfl⟩

/-- Where a transmit does not return, it is marked or hangs. -/
theorem settled_of_not_answered {t : Desc} {s u : State}
    (h : TransmitStops t s u ∨ FrameHangs t s u ∨ FrameCut t s u) : Settled u := by
  rcases h with h | h | h
  · exact framerKeeps_settled.transmitStops (fun _ _ _ hsafe => by simp at hsafe) h trivial
  · exact framerKeeps_settled.hangs t s u h trivial
  · exact framerKeeps_settled.frameCut h trivial

/-- A transmit that returns leaves the position it was issued in. -/
theorem unheld_of_answered {t : Desc} {st : Nat} {s u : State} (hs : Unheld s)
    (h : FrameTooLong t st s u ∨ FrameSent t st s u) : Unheld u := by
  rcases h with ⟨hu, -⟩ | ⟨dc, -, k, o, v, -, hv, rfl⟩
  · rw [hu.eq]
    exact hs
  · rw [hv.eq]
    exact hs

theorem transmit_settled (t : Desc) {s : State} (hs : Unheld s) :
    Ends Settled (fun _ u => Unheld u) (transmit t s) :=
  (transmit_ends t s).imp (fun _ => settled_of_not_answered) fun _ _ => unheld_of_answered hs

theorem pollingTransmit_settled (h : Nat) (t : Desc) {s : State} (hs : Unheld s) :
    Ends Settled (fun _ u => Unheld u) (pollingTransmit h t s) := by
  refine (pollingTransmit_ends h t s).imp ?_ fun _ _ => unheld_of_answered hs
  rintro u (⟨-, rfl⟩ | hu)
  · exact framerKeeps_settled.fault _ _ (by decide) (by decide) trivial
  · exact settled_of_not_answered hu

theorem ReturnsUnheld.settled {c : Call α} (h : ReturnsUnheld c) (h' : Ends Settled (fun _ _ => True) c) :
    Ends Settled (fun _ u => Unheld u) c :=
  (h.and h').imp (fun _ h => h.2) fun _ _ h => h.1

theorem exec_settled_of_sends {i : Instr} {s t : State} (hi : Instr.Sends i) (hs : Unheld s)
    (h : exec i s = .next t) : Settled t := by
  have k := framerKeeps_settled
  have returned : ∀ r u, Unheld u → Settled (setRet r u) := fun _ _ hu _ _ => hu
  cases i with
  | writeCmd c ps =>
    exact finish_keeps
      (ReturnsUnheld.settled (.andThen fun _ u => returnsUnheld_writeCmdBody c _ u)
        (Ends.andThen (k.requireActive trivial) fun _ u _ => k.writeCmdBody c _ trivial))
      (fun _ => returned _) h
  | writeData b =>
    exact finish_keeps
      (ReturnsUnheld.settled (.andThen fun _ u => returnsUnheld_writeDataBody _ _ b _)
        (Ends.andThen (k.requireActive trivial) fun _ u _ => k.writeDataBody _ _ b trivial))
      (fun _ => returned _) h
  | writeDataRotate b d =>
    exact finish_keeps
      (ReturnsUnheld.settled (.andThen fun _ u => returnsUnheld_rotateBody b d u)
        (Ends.andThen (k.requireActive trivial) fun _ u _ =>
          k.rotateBody (fun _ _ _ _ _ => trivial) trivial))
      (fun _ => returned _) h
  | pollingTransmit g d => exact finish_keeps (pollingTransmit_settled g d hs) (fun a => returned (.status a)) h
  | cmdFrame c tx => exact finish_keeps (transmit_settled _ hs) (fun a => returned (.status a)) h
  | hsFrame => exact finish_keeps (transmit_settled _ hs) (fun a => returned (.status a)) h
  | dataFrame tx => exact finish_keeps (transmit_settled _ hs) (fun a => returned (.status a)) h
  | init _ _ _ _ _ _ => exact hi.elim
  | deinit => exact hi.elim
  | readAttr _ => exact hi.elim
  | busInitialize _ _ => exact hi.elim
  | deviceAttach _ _ => exact hi.elim
  | deviceDetach _ => exact hi.elim
  | busFree _ => exact hi.elim

/-! ### The bus manager keeps the machine's invariant -/

theorem MachineInv.raise {s : State} {c : Code} (op : OpName) (st off : Option Nat) (hc : c ≠ .ok)
    (h : MachineInv s) : MachineInv (raise c op st off s) :=
  (h.butPosition.raise op st off hc).machineInv fun _ _ => ⟨rfl, rfl⟩

theorem MachineInv.withOracle {s : State} (o : Oracle) (h : MachineInv s) :
    MachineInv { s with oracle := o } := { h with }

theorem MachineInv.withLife {s : State} (c : Option Cfg) (l : Life) (h : MachineInv s) :
    MachineInv { s with cfg := c, life := l } := { h with }

theorem MachineInv.writeBuscfg {s : State} (bc : BusReq) (h : MachineInv s) : MachineInv (writeBuscfg bc s) :=
  { h with
    buscfg := by simp
    attach := fun _ => rfl
    hardBus := fun b hb => by
      obtain rfl : _ = b := Option.some.inj hb
      exact ⟨rfl, rfl⟩ }

/-- A device that is attached to a READY bus, its handle stored. -/
theorem MachineInv.attached {s : State} (dc : DevCfg) (g : Nat) (hb : s.bus = .ready) (h : MachineInv s) :
    MachineInv (storeHandle (some g) (writeDevcfg dc s)) :=
  { h with
    handle := by simp [storeHandle]
    devcfg := by simp [storeHandle]
    attach := fun _ => hb
    hardDev := fun d hd => by
      obtain rfl : _ = d := Option.some.inj hd
      exact ⟨rfl, rfl⟩
    clock := fun d hd => by
      obtain rfl : _ = d := Option.some.inj hd
      rfl }

theorem MachineInv.clearDevcfg {s : State} (h : MachineInv s) : MachineInv (clearDevcfg s) :=
  { h with
    handle := by simp
    devcfg := by simp
    attach := fun hd => by simp at hd
    hardDev := fun d hd => by simp at hd
    clock := fun d hd => by simp at hd }

/-- Without a device the lines of a bus that is freed need no idle level. -/
theorem MachineInv.clearBuscfg {s : State} (hd : s.dev = .detached) (h : MachineInv s) :
    MachineInv (clearBuscfg s) :=
  have hdev : s.dev ≠ .attached := by simp [hd]
  { h with
    buscfg := by simp
    attach := fun h' => absurd h' hdev
    hardBus := fun b hb => by simp at hb
    clock := fun d hc => absurd (h.devcfg.mpr (by simpa using Option.isSome_of_mem hc)) hdev
    rest := fun hsafe hq => by
      obtain ⟨hseq, hdesc, hheld, -⟩ := h.rest hsafe hq
      exact ⟨hseq, hdesc, hheld, rfl⟩ }

theorem MachineInv.busInitialize (bc : BusReq) {s : State} (h : MachineInv s) :
    Ends MachineInv (fun _ u => MachineInv u) (busInitialize bc s) := by
  refine (busInitialize_ends bc s).imp ?_ ?_
  · rintro u ⟨-, rfl⟩
    exact h.setFault _
  · rintro st u ⟨-, v, hv, rfl⟩
    have hinv : MachineInv v := drawBusInit_eq hv ▸ h.withOracle _
    split
    · exact hinv.writeBuscfg bc
    · exact hinv

/-- The invariant holds once the caller has stored the handle, and a failed attach gives none. -/
theorem MachineInv.deviceAttach (dc : DevCfg) {s : State} (h : MachineInv s) :
    Ends MachineInv (fun r u => MachineInv (storeHandle r.2 u) ∧ (r.1 ≠ 0 → r.2 = none)) (deviceAttach dc s) := by
  refine (deviceAttach_ends dc s).imp ?_ ?_
  · rintro u ⟨-, rfl⟩
    exact h.setFault _
  · rintro r u ⟨hb, -, st, g, v, hv, hr⟩
    have hinv : MachineInv v := drawAttach_eq hv ▸ h.withOracle _
    have hbus : v.bus = .ready := by rw [drawAttach_eq hv]; exact hb
    rcases hr with ⟨-, rfl, rfl⟩ | ⟨-, rfl, rfl⟩
    · exact ⟨hinv.attached dc g hbus, fun h0 => absurd rfl h0⟩
    · exact ⟨hinv, fun _ => rfl⟩

theorem MachineInv.deviceDetach (g : Nat) {s : State} (h : MachineInv s) :
    Ends MachineInv (fun _ u => MachineInv u) (deviceDetach g s) := by
  refine (deviceDetach_ends g s).imp ?_ ?_
  · rintro u (⟨rfl, -⟩ | ⟨-, -, rfl⟩)
    · exact h.setFault _
    · exact h.setFault _
  · rintro - u ⟨-, -, st, v, hv, rfl⟩
    have hinv : MachineInv v := drawDetach_eq hv ▸ h.withOracle _
    exact hinv.clearDevcfg

theorem MachineInv.busFree {s : State} (h : MachineInv s) :
    Ends MachineInv (fun _ u => MachineInv u) (busFree s) := by
  refine (busFree_ends s).imp ?_ ?_
  · rintro u ⟨-, rfl⟩
    exact h.setFault _
  · rintro - u ⟨-, hd, st, v, hv, rfl⟩
    have hinv : MachineInv v := drawBusFree_eq hv ▸ h.withOracle _
    exact hinv.clearBuscfg (by rw [drawBusFree_eq hv]; exact hd)

theorem MachineInv.initBus (busId : Nat) (a : InitArgs) {s : State} (h : MachineInv s) :
    Ends MachineInv (fun _ u => MachineInv u) (initBus busId a s) := by
  refine Ends.andThen (h.busInitialize _) fun st u hu => ?_
  split
  · refine Ends.andThen (hu.deviceAttach _) ?_
    rintro r v ⟨hv, hnone⟩
    split
    · exact hv.withLife _ _
    · rename_i h0
      rw [hnone h0] at hv
      refine Ends.andThen (Q := fun _ w => MachineInv w) ?_ fun _ w hw => hw.raise _ _ _ (by decide)
      split
      · exact hv.busFree
      · exact hv
  · exact hu.raise _ _ _ (by decide)

theorem exec_machineInv_of_not_sends {i : Instr} {s t : State} (hi : ¬ Instr.Sends i) (hs : MachineInv s)
    (h : exec i s = .next t) : MachineInv t := by
  have returned : ∀ r u, MachineInv u → MachineInv (setRet r u) := fun r _ hu => hu.setRet r
  cases i with
  | init busId sck pins baud pol ph =>
    refine finish_keeps ?_ (fun _ => returned _) h
    split
    · exact hs.setFault _
    · refine (initCheck_ends sck pins baud pol ph _).andThen' ?_ ?_
      · rintro u (⟨c, hc, rfl⟩ | rfl)
        · exact hs.clearErr.raise _ _ _ hc
        · exact hs.clearErr.setRefused _
      · rintro a u ⟨rfl, -⟩
        exact hs.clearErr.initBus busId a
  | deinit =>
    refine finish_keeps (P := MachineInv) ?_ (fun _ => returned _) h
    refine Ends.andThen (requireActive_keeps hs.setFault hs) fun _ u hu => ?_
    refine Ends.andThen (attachedHandle_keeps hu.clearErr.setFault hu.clearErr) fun g v hv => ?_
    refine Ends.andThen (hv.deviceDetach g) fun _ w hw => ?_
    refine Ends.andThen (readField_keeps _ hw.setFault hw) fun _ x hx => ?_
    exact Ends.andThen hx.busFree fun _ y hy => hy.withLife y.cfg .released
  | readAttr sel =>
    refine finish_keeps ?_ (fun a => returned (.value a)) h
    refine Ends.andThen (requireActive_keeps hs.setFault hs) fun _ u hu => ?_
    refine Ends.andThen (readField_keeps _ hu.setFault hu) fun c v hv => ?_
    split
    · exact hv
    · exact hv.setRefused _
  | busInitialize id bc => exact finish_keeps (hs.busInitialize bc) (fun a => returned (.status a)) h
  | deviceAttach id dc =>
    refine finish_keeps (P := MachineInv) ?_ (fun _ => returned _) h
    refine Ends.andThen (hs.deviceAttach dc) ?_
    rintro r u ⟨hu, -⟩
    exact hu
  | deviceDetach g => exact finish_keeps (hs.deviceDetach g) (fun _ => returned .done) h
  | busFree id => exact finish_keeps hs.busFree (fun _ => returned .done) h
  | writeCmd _ _ => exact (hi trivial).elim
  | writeData _ => exact (hi trivial).elim
  | writeDataRotate _ _ => exact (hi trivial).elim
  | pollingTransmit _ _ => exact (hi trivial).elim
  | cmdFrame _ _ => exact (hi trivial).elim
  | hsFrame => exact (hi trivial).elim
  | dataFrame _ => exact (hi trivial).elim

/-- An instruction that starts with nothing in progress keeps the machine's invariant. -/
theorem exec_machineInv {i : Instr} {s t : State} (hs : MachineInv s) (hu : Unheld s)
    (h : exec i s = .next t) : MachineInv t := by
  by_cases hi : Instr.Sends i
  · exact (exec_keeps_invButPosition hi hs.butPosition h).machineInv (exec_settled_of_sends hi hu h)
  · exact exec_machineInv_of_not_sends hi hs h

theorem inProgress_eq_false {s : State} (h : inProgress s = false) : s.seq.req = .idle ∧ s.queue = [] := by
  simpa [inProgress] using h

/-- A safe machine in which nothing is in progress keeps no position. -/
theorem MachineInv.unheld {s : State} (h : MachineInv s) (hsafe : safe s = true) (hidle : inProgress s = false) :
    Unheld s := by
  obtain ⟨hreq, hq⟩ := inProgress_eq_false hidle
  obtain ⟨-, -, hheld, -⟩ := h.rest hsafe hq
  exact ⟨hreq, hheld⟩

end Sys2Proof.Machine

open Sys2Proof.Machine

/-- Settles O53: the single updates keep the invariant but for the position, and a request that is over keeps
none. -/
theorem stepKeepsMachineInv : Obligations.StepKeepsMachineInv := by
  intro s t hs hstep
  refine step_keeps hstep hs (fun r _ hu => hu.setRefused r) ?_ (fun _ hu => hs.passed hu) ?_
  · intro a bs es _
    exact { hs with mem := memSetBytes_wf a bs hs.mem }
  · intro p i es hsafe hidle _ _ hexec
    exact exec_machineInv (s := { s with inbox := es }) { hs with } (hs.unheld hsafe hidle) hexec

end

section
/-! SUPPORT. The lifecycle of a host-driven machine (10_state.md R21 to R28): the framer does not touch it, INIT and
DEINIT keep it, and no instruction touches the host's pending actions. -/

namespace Sys2Proof.Machine

/-! ### The lifecycle under the single updates -/

theorem LifecycleInv.withOracle {s : State} (o : Oracle) (h : LifecycleInv s) :
    LifecycleInv { s with oracle := o } := { h with }

theorem LifecycleInv.setFault {s : State} (h : LifecycleInv s) (f : Fault) : LifecycleInv (setFault f s) :=
  { h with }

theorem LifecycleInv.setRefused {s : State} (r : Refusal) (h : LifecycleInv s) : LifecycleInv (setRefused r s) :=
  { h with }

theorem LifecycleInv.raise {s : State} (c : Code) (op : OpName) (st off : Option Nat) (h : LifecycleInv s) :
    LifecycleInv (raise c op st off s) := { h with }

theorem LifecycleInv.clearErr {s : State} (h : LifecycleInv s) : LifecycleInv (clearErr s) := { h with }

theorem LifecycleInv.setRet {s : State} (r : Ret) (h : LifecycleInv s) : LifecycleInv (setRet r s) := { h with }

theorem LifecycleInv.passed {s u : State} (hu : TimePassed s u) (h : LifecycleInv s) : LifecycleInv u := by
  rw [hu.eq]
  exact { h with }

theorem LifecycleInv.hangs {t : Desc} {s u : State} (hu : FrameHangs t s u) (h : LifecycleInv s) :
    LifecycleInv u := by
  obtain ⟨dc, -, j, ph, b, l, o, v, -, hv, rfl, -⟩ := hu
  exact { h.passed hv with }

theorem LifecycleInv.sent {t : Desc} {st : Nat} {s u : State} (hu : FrameSent t st s u) (h : LifecycleInv s) :
    LifecycleInv u := by
  obtain ⟨dc, -, k, o, v, -, hv, rfl⟩ := hu
  exact { h.passed hv with }

/-- The framer does not touch the lifecycle. -/
theorem framerKeeps_lifecycleInv : FramerKeeps LifecycleInv LifecycleInv where
  fault f _ _ _ h := h.setFault f
  unwritten _ _ h := h.setFault .unwritten
  refused r _ _ h := h.setRefused r
  illFormed _ _ _ _ _ _ h := h.setRefused .descriptor
  raise c op st off _ _ h := h.raise c op st off
  clearErr _ h := h.clearErr
  setPos _ _ _ h := { h with }
  setHeld _ _ h := { h with }
  setReqIdle _ h := { h with }
  sent _ _ _ _ hu h := h.sent hu
  passed _ _ hu h := h.passed hu
  hangs _ _ _ hu h := h.hangs hu
  cut _ _ _ hu h := (h.hangs hu).setRefused .concurrent

/-- A bus that is FREE has no device and no ACTIVE handle, so it may be made READY. -/
theorem LifecycleInv.writeBuscfg {s : State} (bc : BusReq) (hb : s.bus = .free) (h : LifecycleInv s) :
    LifecycleInv (writeBuscfg bc s) :=
  have hnot : s.bus ≠ .ready := by simp [hb]
  have hdev : s.dev ≠ .attached := fun hd => hnot (h.attach hd)
  have hlife : s.life ≠ .active := fun hl => hnot (h.active.mp hl).1
  { h with
    active := ⟨fun hl => absurd hl hlife, fun hd => absurd hd.2 hdev⟩
    attach := fun _ => rfl
    config := fun _ hl => absurd hl hlife }

/-- A bus without a device has no ACTIVE handle, so it may be freed. -/
theorem LifecycleInv.clearBuscfg {s : State} (hd : s.dev = .detached) (h : LifecycleInv s) :
    LifecycleInv (clearBuscfg s) :=
  have hdev : s.dev ≠ .attached := by simp [hd]
  have hlife : s.life ≠ .active := fun hl => hdev (h.active.mp hl).2
  { h with
    active := ⟨fun hl => absurd hl hlife, fun hd => absurd hd.2 hdev⟩
    attach := fun hd => absurd hd hdev
    config := fun _ hl => absurd hl hlife }

theorem LifecycleInv.busFree {s : State} (h : LifecycleInv s) :
    Ends LifecycleInv (fun _ u => LifecycleInv u) (busFree s) := by
  refine (busFree_ends s).imp ?_ ?_
  · rintro u ⟨-, rfl⟩
    exact h.setFault _
  · rintro - u ⟨-, hd, st, v, hv, rfl⟩
    have hinv : LifecycleInv v := drawBusFree_eq hv ▸ h.withOracle _
    exact hinv.clearBuscfg (by rw [drawBusFree_eq hv]; exact hd)

/-! ### INIT and DEINIT keep the lifecycle -/

/-- The operands INIT's checks let through. -/
def InitArgs.Checked (a : InitArgs) : Prop := 0 < a.baudrate ∧ a.cpol ≤ 1 ∧ a.cpha ≤ 1

theorem toNat_ofNat_one {n : Nat} (h : n ≤ 1) : (BitVec.ofNat 1 n).toNat = n := by
  rw [BitVec.toNat_ofNat]
  omega

/-- The handle INIT creates over a READY bus agrees with the configurations it has passed down (R122, R124). -/
theorem lifecycleInv_writeCfg {s : State} {a : InitArgs} (busId g : Nat) (ha : a.Checked) (hb : s.bus = .ready)
    (hbc : s.buscfg = some ⟨initBusReq s.params a.sck a.d, s.params.dmaCh⟩) :
    LifecycleInv (writeCfg busId a (some g)
      (writeDevcfg (initDevCfg s.params a.baudrate a.cpol a.cpha) s)) where
  active := ⟨fun _ => ⟨hb, rfl⟩, fun _ => rfl⟩
  attach _ := hb
  cfg := ⟨fun hl => (nomatch hl), fun hc => (nomatch hc)⟩
  config c _ hc := by
    obtain ⟨hbaud, hcpol, hcpha⟩ := ha
    obtain rfl : _ = c := Option.some.inj hc
    refine ⟨hbaud, ?_, hbc⟩
    rw [toNat_ofNat_one hcpol, toNat_ofNat_one hcpha]
    rfl

theorem LifecycleInv.attachFailed (st : Nat) {s : State} (h : LifecycleInv s) :
    Ends LifecycleInv (fun _ u => LifecycleInv u) (attachFailed st s) := by
  refine Ends.andThen (Q := fun _ u => LifecycleInv u) ?_ fun _ u hu => hu.raise _ _ _ _
  split
  · exact h.busFree
  · exact h

theorem LifecycleInv.initBus (busId : Nat) {a : InitArgs} (ha : a.Checked) {s : State} (h : LifecycleInv s) :
    Ends LifecycleInv (fun _ u => LifecycleInv u) (initBus busId a s) := by
  refine (busInitialize_ends _ s).andThen' ?_ ?_
  · rintro u ⟨-, rfl⟩
    exact h.setFault _
  rintro st u ⟨hfree, v, hv, rfl⟩
  have hvinv : LifecycleInv v := drawBusInit_eq hv ▸ h.withOracle _
  have hvfree : v.bus = .free := by rw [drawBusInit_eq hv]; exact hfree
  have hvparams : v.params = s.params := by rw [drawBusInit_eq hv]
  split
  · have hready := hvinv.writeBuscfg (initBusReq s.params a.sck a.d) hvfree
    refine (deviceAttach_ends _ _).andThen' ?_ ?_
    · rintro u ⟨-, rfl⟩
      exact hready.setFault _
    rintro r u ⟨-, -, st, g, w, hw, ⟨-, rfl, rfl⟩ | ⟨hst, rfl, rfl⟩⟩
    · have hcreated := lifecycleInv_writeCfg (s := w) busId g ha (by rw [drawAttach_eq hw]; rfl)
        (by rw [drawAttach_eq hw]; simp only [writeBuscfg_buscfg, writeBuscfg_params, hvparams]; rfl)
      rw [drawAttach_eq hw] at hcreated ⊢
      exact hcreated
    · rw [if_neg hst, drawAttach_eq hw]
      exact (hready.withOracle _).attachFailed st
  · exact hvinv.raise _ _ _ _

/-- DEINIT ends where the device is detached, the bus still READY and the handle valued. -/
theorem lifecycleInv_released {s : State} (hd : s.dev = .detached) (hc : s.cfg ≠ none) :
    LifecycleInv { clearBuscfg s with life := .released } where
  active := ⟨fun hl => (nomatch hl), fun hb => (nomatch hb.1)⟩
  attach hd' := by simp [hd] at hd'
  cfg := ⟨fun hl => (nomatch hl), fun hc' => absurd hc' hc⟩
  config _ hl := nomatch hl

theorem execDeinit_lifecycleInv {s t : State} (hs : LifecycleInv s) (h : execDeinit s = .next t) :
    LifecycleInv t := by
  refine finish_keeps ?_ (fun _ _ hu => LifecycleInv.setRet _ hu) h
  refine (requireActive_ends s).andThen' ?_ ?_
  · rintro u ⟨-, rfl⟩
    exact hs.setFault _
  rintro - u ⟨hactive, rfl⟩
  refine (attachedHandle_ends _).andThen' ?_ ?_
  · rintro v (⟨-, rfl⟩ | ⟨-, -, rfl⟩)
    · exact hs.clearErr.setFault _
    · exact hs.clearErr.setFault _
  rintro g v ⟨-, -, rfl⟩
  refine (deviceDetach_ends g _).andThen' ?_ ?_
  · rintro w (⟨rfl, -⟩ | ⟨-, -, rfl⟩)
    · exact hs.clearErr.setFault _
    · exact hs.clearErr.setFault _
  rintro - w ⟨-, -, st, x, hx, rfl⟩
  obtain ⟨hready, -⟩ := hs.active.mp hactive
  obtain ⟨c, hc⟩ : ∃ c, u.cfg = some c :=
    Option.ne_none_iff_exists'.mp fun hn => by simp [hs.cfg.mpr hn] at hactive
  have hxc : x.cfg = some c := by rw [drawDetach_eq hx]; exact hc
  have hxb : x.bus = .ready := by rw [drawDetach_eq hx]; exact hready
  rw [clearDevcfg_cfg, hxc, readField_some, andThen_ret,
    busFree_of (s := clearDevcfg x) hxb rfl rfl, andThen_ret]
  have hfreed := drawBusFree_eq (s := clearDevcfg x) rfl
  exact lifecycleInv_released (by rw [hfreed]; rfl) (by rw [hfreed]; simp [hxc])

theorem execInit_lifecycleInv {s t : State} (busId sck : Nat) (pins : List Nat) (baud : Nat)
    (pol ph : Option Nat) (hs : LifecycleInv s) (h : execInit busId sck pins baud pol ph s = .next t) :
    LifecycleInv t := by
  refine finish_keeps ?_ (fun _ _ hu => LifecycleInv.setRet _ hu) h
  split
  · exact hs.setFault _
  · refine (initCheck_ends sck pins baud pol ph _).andThen' ?_ ?_
    · rintro u (⟨c, -, rfl⟩ | rfl)
      · exact hs.clearErr.raise _ _ _ _
      · exact hs.clearErr.setRefused _
    · rintro a u ⟨rfl, ha⟩
      exact hs.clearErr.initBus busId ha

theorem execReadAttr_lifecycleInv {s t : State} (sel : BitVec 4) (hs : LifecycleInv s)
    (h : execReadAttr sel s = .next t) : LifecycleInv t := by
  refine finish_keeps ?_ (fun _ _ hu => LifecycleInv.setRet _ hu) h
  refine Ends.andThen (requireActive_keeps hs.setFault hs) fun _ u hu => ?_
  refine Ends.andThen (readField_keeps _ hu.setFault hu) fun c v hv => ?_
  split
  · exact hv
  · exact hv.setRefused _

theorem exec_lifecycleInv_of_sends {i : Instr} {s t : State} (hi : Instr.Sends i) (hs : LifecycleInv s)
    (h : exec i s = .next t) : LifecycleInv t :=
  exec_keeps_of_sends framerKeeps_lifecycleInv (fun r _ hu => hu.setRet r) hs
    (fun _ _ _ _ _ _ _ hu => { hu with }) (fun _ _ _ => hs.setRefused .descriptor) hi h

/-- The requests of the host interface (30_encoding.md R80). -/
def Instr.HostRequest : Instr → Prop
  | .init _ _ _ _ _ _ => True
  | .deinit => True
  | .writeCmd _ _ => True
  | .writeData _ => True
  | .writeDataRotate _ _ => True
  | .readAttr _ => True
  | _ => False

theorem hostRequest_of_decode {req : BitVec 8} {ops : Operands} {i : Instr}
    (h : decode (.host req ops) = .ok i) : Instr.HostRequest i := by
  simp only [decode, decodeHost] at h
  split at h
  · cases h
  · split at h <;> cases h <;> trivial

theorem exec_lifecycleInv {i : Instr} {s t : State} (hi : Instr.HostRequest i) (hs : LifecycleInv s)
    (h : exec i s = .next t) : LifecycleInv t := by
  by_cases hsends : Instr.Sends i
  · exact exec_lifecycleInv_of_sends hsends hs h
  · cases i with
    | init busId sck pins baud pol ph => exact execInit_lifecycleInv busId sck pins baud pol ph hs h
    | deinit => exact execDeinit_lifecycleInv hs h
    | readAttr sel => exact execReadAttr_lifecycleInv sel hs h
    | writeCmd _ _ => exact (hsends trivial).elim
    | writeData _ => exact (hsends trivial).elim
    | writeDataRotate _ _ => exact (hsends trivial).elim
    | pollingTransmit _ _ => exact hi.elim
    | cmdFrame _ _ => exact hi.elim
    | hsFrame => exact hi.elim
    | dataFrame _ => exact hi.elim
    | busInitialize _ _ => exact hi.elim
    | deviceAttach _ _ => exact hi.elim
    | deviceDetach _ => exact hi.elim
    | busFree _ => exact hi.elim

/-! ### No instruction touches the host's pending actions -/

theorem FrameHangs.inbox {t : Desc} {s u : State} (h : FrameHangs t s u) : u.inbox = s.inbox := by
  obtain ⟨dc, -, j, ph, b, l, o, v, -, hv, rfl, -⟩ := h
  rw [hv.eq]
  rfl

theorem framerKeeps_inbox (es : List Event) : FramerKeeps (·.inbox = es) (·.inbox = es) where
  fault _ _ _ _ h := h
  unwritten _ _ h := h
  refused _ _ _ h := h
  illFormed _ _ _ _ _ _ h := h
  raise _ _ _ _ _ _ h := h
  clearErr _ h := h
  setPos _ _ _ h := h
  setHeld _ _ h := h
  setReqIdle _ h := h
  sent _ _ _ _ hu h := by
    obtain ⟨dc, -, k, o, v, -, hv, rfl⟩ := hu
    rw [hv.eq]
    exact h
  passed _ _ hu h := by
    rw [hu.eq]
    exact h
  hangs _ _ _ hu h := hu.inbox.trans h
  cut _ _ _ hu h := hu.inbox.trans h

theorem busKeeps_inbox (es : List Event) : BusKeeps (·.inbox = es) (·.inbox = es) where
  fault _ _ _ h := h
  refused _ _ h := h
  raise _ _ _ _ _ _ h := h
  clearErr _ h := h
  oracle _ _ h := h
  writeBuscfg _ _ h := h
  writeDevcfg _ _ h := h
  storeHandle g _ h := by cases g <;> exact h
  clearDevcfg _ h := h
  clearBuscfg _ h := h
  life _ _ _ h := h

theorem exec_inbox {i : Instr} {s t : State} (h : exec i s = .next t) : t.inbox = s.inbox :=
  exec_keeps (P := (·.inbox = s.inbox)) (framerKeeps_inbox s.inbox) (busKeeps_inbox s.inbox) (fun _ _ h => h) rfl
    (fun _ _ _ _ _ _ _ h => h) (fun _ _ _ => rfl) h

theorem HostDriven.of_inbox {s u : State} (h : HostDriven s) (hin : u.inbox = s.inbox) : HostDriven u := by
  unfold HostDriven
  rw [hin]
  exact h

theorem HostDriven.of_cons {s u : State} {e : Event} (h : HostDriven s) (hin : s.inbox = e :: u.inbox) :
    HostDriven u :=
  fun x hx => h x (hin ▸ List.mem_cons_of_mem e hx)

/-- A host-driven machine takes its packets at the host interface alone. -/
theorem HostDriven.packet {s : State} {p : Packet} {es : List Event} (h : HostDriven s)
    (hin : s.inbox = .packet p :: es) : ∃ req ops, p = .host req ops := by
  rcases h (.packet p) (by simp [hin]) with ⟨req, ops, he⟩ | ⟨a, bs, he⟩
  · exact ⟨req, ops, Event.packet.inj he⟩
  · cases he

end Sys2Proof.Machine

open Sys2Proof.Machine

/-- Settles O54: only INIT and DEINIT touch the lifecycle of a machine whose host alone drives it, and the pending
actions stay the host's. -/
theorem stepKeepsLifecycleInv : Obligations.StepKeepsLifecycleInv := by
  intro s t hhost hs hstep
  refine step_keeps (P := fun u => HostDriven u ∧ LifecycleInv u) hstep ⟨hhost, hs⟩ ?_ ?_ ?_ ?_
  · rintro r u ⟨hu, hinv⟩
    exact ⟨hu, hinv.setRefused r⟩
  · intro a bs es hin
    exact ⟨hhost.of_cons hin, { hs with }⟩
  · intro u hpass
    exact ⟨hhost.of_inbox (by rw [hpass.eq]), hs.passed hpass⟩
  · intro p i es _ _ hin hdec hexec
    obtain ⟨req, ops, rfl⟩ := hhost.packet hin
    have hes : HostDriven { s with inbox := es } := hhost.of_cons hin
    exact ⟨hes.of_inbox (exec_inbox hexec),
      exec_lifecycleInv (s := { s with inbox := es }) (hostRequest_of_decode hdec) { hs with } hexec⟩

end

section
/-! SUPPORT. The log and the wire only grow (10_state.md R45, 60_exceptions.md R268). -/

namespace Sys2Proof.Machine

/-- Nothing driven or logged in `s` is undone in `u`: the log and the wire only got longer. -/
def Extends (s u : State) : Prop := s.log <+: u.log ∧ s.wire <+: u.wire

theorem TimePassed.extends {s u v : State} (h : TimePassed u v) (hs : Extends s u) : Extends s v := by
  rw [h.eq]
  exact hs

theorem FrameSent.extends {t : Desc} {st : Nat} {s u v : State} (h : FrameSent t st u v) (hs : Extends s u) :
    Extends s v := by
  obtain ⟨dc, -, k, o, w, -, hw, rfl⟩ := h
  obtain ⟨hlog, hwire⟩ := hw.extends hs
  exact ⟨hlog.trans (List.prefix_append _ _), hwire.trans (List.prefix_append _ _)⟩

theorem FrameHangs.extends {t : Desc} {s u v : State} (h : FrameHangs t u v) (hs : Extends s u) :
    Extends s v := by
  obtain ⟨dc, -, j, ph, b, l, o, w, -, hw, rfl, -⟩ := h
  obtain ⟨hlog, hwire⟩ := hw.extends hs
  exact ⟨hlog, hwire.trans (List.prefix_append _ _)⟩

theorem framerKeeps_extends (s : State) : FramerKeeps (Extends s) (Extends s) where
  fault _ _ _ _ h := h
  unwritten _ _ h := h
  refused _ _ _ h := h
  illFormed _ _ _ _ _ _ h := h
  raise _ _ _ _ _ _ h := h
  clearErr _ h := h
  setPos _ _ _ h := h
  setHeld _ _ h := h
  setReqIdle _ h := h
  sent _ _ _ _ h hs := h.extends hs
  passed _ _ h hs := h.extends hs
  hangs _ _ _ h hs := h.extends hs
  cut _ _ _ h hs := h.extends hs

theorem busKeeps_extends (s : State) : BusKeeps (Extends s) (Extends s) where
  fault _ _ _ h := h
  refused _ _ h := h
  raise _ _ _ _ _ _ h := h
  clearErr _ h := h
  oracle _ _ h := h
  writeBuscfg _ _ h := h
  writeDevcfg _ _ h := h
  storeHandle g _ h := by cases g <;> exact h
  clearDevcfg _ h := h
  clearBuscfg _ h := h
  life _ _ _ h := h

theorem exec_extends {i : Instr} {s u t : State} (hs : Extends s u) (h : exec i u = .next t) : Extends s t :=
  exec_keeps (framerKeeps_extends s) (busKeeps_extends s) (fun _ _ h => h) hs (fun _ _ _ _ _ _ _ h => h)
    (fun _ _ _ => hs) h

end Sys2Proof.Machine

open Sys2Proof.Machine

/-- Settles O20: only a frame's beats and its entry touch the two, and each is put at the end. -/
theorem logAndWireOnlyGrow : Obligations.LogAndWireOnlyGrow := by
  intro s t hstep
  have hs : Extends s s := ⟨List.prefix_rfl, List.prefix_rfl⟩
  refine step_keeps hstep hs (fun _ _ h => h) (fun _ _ _ _ => hs) (fun _ h => h.extends hs) ?_
  intro p i es _ _ _ _ hexec
  exact exec_extends (u := { s with inbox := es }) hs hexec

end

section
/-! SUPPORT. The sequencer through a frame (10_state.md R41, 41_line_sequencer.md R168): through the beats of one
phase it counts their bits, and the frame is its phases in their order. -/

namespace Sys2Proof.Machine

variable {m : Multiline} {dc : DevCfg} {t : Desc}

/-- `driveBeats` without its record of the wire. -/
abbrev drive (m : Multiline) (dc : DevCfg) (t : Desc) (bs : List Beat) (s : State) : State :=
  bs.foldl (driveBeat m dc t) s

theorem driveBeats_seq (bs : List Beat) (s : State) : (driveBeats m dc t bs s).seq = (drive m dc t bs s).seq :=
  rfl

/-- A beat within its phase is counted. -/
theorem driveBeat_seq_within {s : State} {b : Beat}
    (h : s.seq.bit + phaseStep m dc t b.tag ≠ phaseLen dc t b.tag) :
    (driveBeat m dc t s b).seq = ⟨s.seq.req, some b.tag, s.seq.bit + phaseStep m dc t b.tag⟩ :=
  if_neg h

/-- The last beat of a phase is followed by the next phase that is not empty. -/
theorem driveBeat_seq_last {s : State} {b : Beat}
    (h : s.seq.bit + phaseStep m dc t b.tag = phaseLen dc t b.tag) :
    (driveBeat m dc t s b).seq = ⟨s.seq.req, firstPhase dc t (phasesAfter b.tag), 0⟩ :=
  if_pos h

/-- Beats of one phase that do not fill it are counted. -/
theorem drive_seq_within {p : Phase} {s : State} (hs : s.seq = ⟨s.seq.req, some p, 0⟩) (bs : List Beat)
    (hp : ∀ b ∈ bs, b.tag = p) (hl : phaseStep m dc t p * bs.length < phaseLen dc t p) :
    (drive m dc t bs s).seq = ⟨s.seq.req, some p, phaseStep m dc t p * bs.length⟩ := by
  induction bs using List.reverseRecOn with
  | nil => exact hs
  | append_singleton bs b ih =>
    have hb : b.tag = p := hp b (by simp)
    simp only [List.length_append, List.length_singleton, Nat.mul_add, Nat.mul_one] at hl ⊢
    have ih := ih (fun x hx => hp x (by simp [hx])) (by omega)
    simp only [drive, List.foldl_append, List.foldl_cons, List.foldl_nil] at ih ⊢
    rw [driveBeat_seq_within (by rw [ih, hb]; exact hl.ne), ih, hb]

/-- Beats of one phase that fill it are followed by the next phase that is not empty. -/
theorem drive_seq_whole {p : Phase} {s : State} (hs : s.seq = ⟨s.seq.req, some p, 0⟩) (bs : List Beat)
    (hp : ∀ b ∈ bs, b.tag = p) (hl : phaseStep m dc t p * bs.length = phaseLen dc t p)
    (hpos : phaseLen dc t p ≠ 0) :
    (drive m dc t bs s).seq = ⟨s.seq.req, firstPhase dc t (phasesAfter p), 0⟩ := by
  induction bs using List.reverseRecOn with
  | nil => exact absurd hl.symm hpos
  | append_singleton bs b _ =>
    have hb : b.tag = p := hp b (by simp)
    simp only [List.length_append, List.length_singleton, Nat.mul_add, Nat.mul_one] at hl
    have hstep := phaseStep_pos m dc t p
    have hw := drive_seq_within hs bs (fun x hx => hp x (by simp [hx])) (m := m) (dc := dc) (t := t) (by omega)
    simp only [drive, List.foldl_append, List.foldl_cons, List.foldl_nil] at hw ⊢
    rw [driveBeat_seq_last (by rw [hw, hb]; exact hl), hw, hb]

/-- The beats of some phases in their order. -/
def phasesBeats (m : Multiline) (dc : DevCfg) (t : Desc) (ps : List Phase) : List Beat :=
  ps.flatMap (phasePart m dc t)

theorem serialize_eq_phasesBeats : serialize m dc t = phasesBeats m dc t [.cmd, .addr, .dummy, .data] := by
  simp [serialize_eq, phasesBeats]

theorem tag_mem_of_mem_phasesBeats {ps : List Phase} {b : Beat} (h : b ∈ phasesBeats m dc t ps) :
    b.tag ∈ ps := by
  obtain ⟨p, hp, hb⟩ := List.mem_flatMap.mp h
  exact phasePart_tag hb ▸ hp

/-- The bits of the phase of beat `n` that the beats before it have driven; 0 where there is no beat `n`. -/
def bitBefore (m : Multiline) (dc : DevCfg) (t : Desc) (bs : List Beat) (n : Nat) : Nat :=
  match bs[n]? with
  | some b => phaseStep m dc t b.tag * ((bs.take n).filter fun x => x.tag = b.tag).length
  | none => 0

/-- Where the sequencer stands before beat `n`. -/
def seqBefore (m : Multiline) (dc : DevCfg) (t : Desc) (bs : List Beat) (n : Nat) (r : ReqPos) : Seq :=
  ⟨r, bs[n]?.map Beat.tag, bitBefore m dc t bs n⟩

/-- The phases from one of a frame's on. -/
inductive PhaseTail : List Phase → Prop
  | nil : PhaseTail []
  | cons (p : Phase) : PhaseTail (phasesAfter p) → PhaseTail (p :: phasesAfter p)

/-- Within the first phase the bits are those of the beats so far. -/
theorem seqBefore_append_left {p : Phase} {bs cs : List Beat} {n : Nat} (hp : ∀ b ∈ bs, b.tag = p)
    (hn : n < bs.length) (r : ReqPos) :
    seqBefore m dc t (bs ++ cs) n r = ⟨r, some p, phaseStep m dc t p * n⟩ := by
  have hb : (bs ++ cs)[n]? = some bs[n] := by
    rw [List.getElem?_append_left hn, List.getElem?_eq_getElem hn]
  have hf : ((bs ++ cs).take n).filter (fun x => x.tag = p) = bs.take n := by
    rw [List.take_append_of_le_length hn.le, List.filter_eq_self]
    intro x hx
    simpa using hp x (List.mem_of_mem_take hx)
  simp only [seqBefore, bitBefore, hb, Option.map_some, hp _ (List.getElem_mem hn), hf, List.length_take,
    Nat.min_eq_left hn.le]

/-- The beats of an earlier phase are no bits of the later ones. -/
theorem seqBefore_append_right {p : Phase} {bs cs : List Beat} (hp : ∀ b ∈ bs, b.tag = p)
    (hc : ∀ c ∈ cs, c.tag ≠ p) (k : Nat) (r : ReqPos) :
    seqBefore m dc t (bs ++ cs) (bs.length + k) r = seqBefore m dc t cs k r := by
  have hget : (bs ++ cs)[bs.length + k]? = cs[k]? := by
    rw [List.getElem?_append_right (by omega), Nat.add_sub_cancel_left]
  unfold seqBefore bitBefore
  rw [hget]
  cases hk : cs[k]? with
  | none => rfl
  | some c =>
    have hf : bs.filter (fun x => x.tag = c.tag) = [] := by
      rw [List.filter_eq_nil_iff]
      intro x hx
      simpa [hp x hx] using (hc c (List.mem_of_getElem? hk)).symm
    simp [List.take_length_add_append, List.filter_append, hf]

theorem phaseStep_mul_length (h : t.wf m dc = true) (p : Phase) :
    phaseStep m dc t p * (phasePart m dc t p).length = phaseLen dc t p := by
  obtain ⟨-, hdvd⟩ := wf_lengths h
  rw [phasePart_length h, Nat.mul_div_cancel' (Nat.dvd_of_mod_eq_zero (hdvd p))]

/-- A whole phase, also one that is empty. -/
theorem drive_seq_phasePart (h : t.wf m dc = true) (p : Phase) {s : State}
    (hs : s.seq = ⟨s.seq.req, firstPhase dc t (p :: phasesAfter p), 0⟩) :
    (drive m dc t (phasePart m dc t p) s).seq = ⟨s.seq.req, firstPhase dc t (phasesAfter p), 0⟩ := by
  have hl := phaseStep_mul_length h p
  by_cases h0 : phaseLen dc t p = 0
  · have hnil : phasePart m dc t p = [] := by
      have := phaseStep_pos m dc t p
      exact List.eq_nil_of_length_eq_zero (by simpa [h0, this.ne'] using hl)
    rw [firstPhase, if_pos h0] at hs
    rw [hnil]
    exact hs
  · rw [firstPhase, if_neg h0] at hs
    exact drive_seq_whole hs _ (fun _ => phasePart_tag) hl h0

theorem not_mem_phasesAfter (p : Phase) : p ∉ phasesAfter p := by
  cases p <;> decide

/-- Before every beat of the phases from one on, the sequencer stands where `seqBefore` says, and so at
(IDLE, 0) after the last of them. -/
theorem drive_seq_eq_seqBefore (h : t.wf m dc = true) {ps : List Phase} (hps : PhaseTail ps) :
    ∀ (n : Nat) (s : State), s.seq = ⟨s.seq.req, firstPhase dc t ps, 0⟩ →
      (drive m dc t ((phasesBeats m dc t ps).take n) s).seq =
        seqBefore m dc t (phasesBeats m dc t ps) n s.seq.req := by
  induction hps with
  | nil =>
    intro n s hs
    simpa [drive, phasesBeats, seqBefore, bitBefore, firstPhase] using hs
  | cons p _ ih =>
    intro n s hs
    have hsplit : phasesBeats m dc t (p :: phasesAfter p) =
        phasePart m dc t p ++ phasesBeats m dc t (phasesAfter p) := List.flatMap_cons
    have hrest : ∀ c ∈ phasesBeats m dc t (phasesAfter p), c.tag ≠ p := by
      rintro c hc rfl
      exact not_mem_phasesAfter c.tag (tag_mem_of_mem_phasesBeats hc)
    have hl := phaseStep_mul_length h p
    rw [hsplit]
    rcases Nat.lt_or_ge n (phasePart m dc t p).length with hn | hn
    · have hlt : phaseStep m dc t p * n < phaseLen dc t p :=
        hl ▸ Nat.mul_lt_mul_of_pos_left hn (phaseStep_pos m dc t p)
      rw [firstPhase, if_neg (by omega)] at hs
      rw [seqBefore_append_left (fun _ => phasePart_tag) hn, List.take_append_of_le_length hn.le]
      have hlen : ((phasePart m dc t p).take n).length = n := List.length_take_of_le hn.le
      have := drive_seq_within hs ((phasePart m dc t p).take n)
        (fun _ hb => phasePart_tag (List.mem_of_mem_take hb)) (by rw [hlen]; exact hlt)
      rwa [hlen] at this
    · obtain ⟨k, rfl⟩ := Nat.exists_eq_add_of_le hn
      have hwhole := drive_seq_phasePart h p hs
      have hreq : (drive m dc t (phasePart m dc t p) s).seq.req = s.seq.req := by rw [hwhole]
      rw [seqBefore_append_right (fun _ => phasePart_tag) hrest, List.take_length_add_append,
        drive, List.foldl_append, ← hreq]
      exact ih k _ (by rw [hreq]; exact hwhole)

theorem phaseTail_all : PhaseTail [.cmd, .addr, .dummy, .data] :=
  .cons .cmd (.cons .addr (.cons .dummy (.cons .data .nil)))

/-- After `n` beats of a frame. -/
theorem driveBeats_startFrame_seq (h : t.wf m dc = true) (n : Nat) (s : State) :
    (driveBeats m dc t ((serialize m dc t).take n) (startFrame dc t s)).seq =
      seqBefore m dc t (serialize m dc t) n s.seq.req := by
  rw [driveBeats_seq, serialize_eq_phasesBeats]
  exact drive_seq_eq_seqBefore h phaseTail_all n (startFrame dc t s) rfl

end Sys2Proof.Machine

open Sys2Proof Sys2Proof.Machine

/-- Settles O14: where the sequencer stands before each beat, by induction on the phases that are left. -/
theorem sequencerFollowsPhases : Obligations.SequencerFollowsPhases := by
  intro m dc t s hwf
  refine ⟨fun n _ => ?_, fun n b hb => ?_, ?_⟩
  · rw [driveBeats_startFrame_seq hwf]
    rfl
  · rw [driveBeats_startFrame_seq hwf]
    simp only [seqBefore, bitBefore, hb]
  · have hend := driveBeats_startFrame_seq hwf (serialize m dc t).length s
    rw [List.take_length] at hend
    rw [hend]
    simp [seqBefore, bitBefore]

end

section
/-! SUPPORT. Reset, the mode bits, and the marks that end a run (10_state.md R27, R47, R48, R51). -/

namespace Sys2Proof.Machine

theorem atRest_reset : AtRest State.reset := ⟨rfl, rfl, rfl, rfl⟩

theorem machineInv_reset : MachineInv State.reset where
  mem := rfl
  handle := by decide
  devcfg := by decide
  buscfg := by decide
  attach := by decide
  hardDev _ h := nomatch h
  hardBus _ h := nomatch h
  clock _ h := nomatch h
  rest _ _ := atRest_reset
  flight := .inl rfl
  err _ h := nomatch h

theorem hostDriven_reset : HostDriven State.reset := fun _ h => nomatch h

theorem lifecycleInv_reset : LifecycleInv State.reset where
  active := by decide
  attach := by decide
  cfg := by decide
  config _ h := nomatch h

theorem wireInv_reset : WireInv State.reset := ⟨0, rfl⟩

theorem paramsOk_reset : paramsOk State.reset.params = true := by
  simp [paramsOk, State.reset, Config.params, statusMem]

theorem fetch_of_fault {s : State} {f : Fault} (h : s.fault = some f) : fetch s = .faulted f := by
  simp [fetch, h]

theorem fetch_of_refused {s : State} {r : Refusal} (hf : s.fault = none) (hr : s.refused = some r) :
    fetch s = .refused r := by
  simp [fetch, hf, hr]

/-- The table of R27: the mode of each polarity and phase. -/
theorem spiMode_bits : ∀ cpol cpha : Fin 2,
    (spiMode cpol cpha).getLsbD 0 = decide (cpha.val = 1) ∧
      (spiMode cpol cpha).getLsbD 1 = decide (cpol.val = 1) ∧
      (spiMode cpol cpha).toNat = cpha + 2 * cpol := by
  decide

end Sys2Proof.Machine

open Sys2Proof Sys2Proof.Machine

/-- Settles O1: each value is the one `State.reset` writes. -/
theorem resetValues : Obligations.ResetValues :=
  ⟨rfl, rfl, rfl, rfl, rfl, rfl, rfl, rfl, rfl, rfl, rfl, rfl, rfl, rfl, rfl, rfl, rfl, rfl, readField_none⟩

/-- Settles O2: nothing is attached, configured or in flight at reset. -/
theorem resetMeetsInvariants : Obligations.ResetMeetsInvariants :=
  ⟨machineInv_reset, hostDriven_reset, lifecycleInv_reset, wireInv_reset, paramsOk_reset⟩

/-- Settles O7: the two bits of the mode are the phase and the polarity. -/
theorem spiModeBits : Obligations.SpiModeBits := by
  refine ⟨fun cpol cpha hpol hpha => ?_, rfl⟩
  exact spiMode_bits ⟨cpol, by omega⟩ ⟨cpha, by omega⟩

/-- Settles O49: the fetch looks at the marks before anything else. -/
theorem marksAreSticky : Obligations.MarksAreSticky := by
  refine ⟨fun s f hf => ?_, fun s r hf hr => ?_⟩
  · simp [step, fetch_of_fault hf]
  · simp [step, fetch_of_refused hf hr]

end

section
/-! SUPPORT. A byte of host memory that no other thread is to write (20_memory.md R60, R61): only a store of the
rotator into its scratch changes it. -/

namespace Sys2Proof.Machine

theorem othersWrite_iff {s : State} {a : Nat} :
    OthersWrite s a ↔ ∃ x bs, .hostWrite x bs ∈ s.others.map Arrival.event ∧ x ≤ a ∧ a < x + bs.length := by
  constructor
  · rintro ⟨e, he, x, bs, hev, hlo, hhi⟩
    exact ⟨x, bs, List.mem_map.mpr ⟨e, he, hev⟩, hlo, hhi⟩
  · rintro ⟨x, bs, hmem, hlo, hhi⟩
    obtain ⟨e, he, hev⟩ := List.mem_map.mp hmem
    exact ⟨e, he, x, bs, hev, hlo, hhi⟩

/-- The byte at `a` is in `u` what it was in `s`, and no other thread is still to write it. -/
def ByteKept (s : State) (a : Nat) (u : State) : Prop := ¬ OthersWrite u a ∧ memByte u.mem a = memByte s.mem a

variable {s u v : State} {a : Nat}

/-- The actions that came were among the coming ones, and so are those still to come. -/
theorem ByteKept.passed (h : TimePassed u v) (hk : ByteKept s a u) : ByteKept s a v := by
  obtain ⟨hnone, hbyte⟩ := hk
  obtain ⟨pre, hcame⟩ := h
  rw [othersWrite_iff, hcame.order] at hnone
  refine ⟨fun hv => ?_, (hcame.outside a fun x bs hmem => ?_).trans hbyte⟩
  · obtain ⟨x, bs, hmem, hin⟩ := othersWrite_iff.mp hv
    exact hnone ⟨x, bs, List.mem_append_right _ hmem, hin⟩
  · by_contra hin
    exact hnone ⟨x, bs, List.mem_append_left _ hmem, by omega⟩

theorem ByteKept.sent {t : Desc} {st : Nat} (h : FrameSent t st u v) (hk : ByteKept s a u) : ByteKept s a v := by
  obtain ⟨dc, -, k, o, w, -, hw, rfl⟩ := h
  exact show ByteKept s a w from hk.passed hw

theorem ByteKept.hangs {t : Desc} (h : FrameHangs t u v) (hk : ByteKept s a u) : ByteKept s a v := by
  obtain ⟨dc, -, j, ph, b, l, o, w, -, hw, rfl, -⟩ := h
  exact show ByteKept s a w from hk.passed hw

theorem ByteKept.store {dst : Buf} (h : a < dst.base ∨ dst.base + dst.len ≤ a) :
    StoreKeeps dst (ByteKept s a) := by
  rintro u off bytes hin ⟨hnone, hbyte⟩
  exact ⟨hnone, (memByte_memSetBytes_other _ _ (by omega)).trans hbyte⟩

theorem framerKeeps_byte (s : State) (a : Nat) : FramerKeeps (ByteKept s a) (ByteKept s a) where
  fault _ _ _ _ h := h
  unwritten _ _ h := h
  refused _ _ _ h := h
  illFormed _ _ _ _ _ _ h := h
  raise _ _ _ _ _ _ h := h
  clearErr _ h := h
  setPos _ _ _ h := h
  setHeld _ _ h := h
  setReqIdle _ h := h
  sent _ _ _ _ h hk := hk.sent h
  passed _ _ h hk := hk.passed h
  hangs _ _ _ h hk := hk.hangs h
  cut _ _ u h hk := show ByteKept s a u from hk.hangs h

theorem busKeeps_byte (s : State) (a : Nat) : BusKeeps (ByteKept s a) (ByteKept s a) where
  fault _ _ _ h := h
  refused _ _ h := h
  raise _ _ _ _ _ _ h := h
  clearErr _ h := h
  oracle _ _ h := h
  writeBuscfg _ _ h := h
  writeDevcfg _ _ h := h
  storeHandle g _ h := by cases g <;> exact h
  clearDevcfg _ h := h
  clearBuscfg _ h := h
  life _ _ _ h := h

/-- A byte outside the scratch that no other thread is to write is as it was, and still none is to write it. -/
theorem exec_byteKept {i : Instr} {s t : State} {a : Nat} (hnone : ¬ OthersWrite s a)
    (hout : ∀ src dst, i = .writeDataRotate src dst → a < dst.base ∨ dst.base + dst.len ≤ a)
    (h : exec i s = .next t) : ByteKept s a t :=
  have hs : ByteKept s a s := ⟨hnone, rfl⟩
  exec_keeps (framerKeeps_byte s a) (busKeeps_byte s a) (fun _ _ h => h) hs
    (fun src dst hi => ByteKept.store (hout src dst hi)) (fun _ _ _ => hs) h

end Sys2Proof.Machine

open Sys2Proof Sys2Proof.Machine

/-- Settles O41: the stores of the rotator are all within its scratch, and nothing else writes memory but the other
threads. -/
theorem onlyRotateWritesMemory : Obligations.OnlyRotateWritesMemory := by
  intro i s t a hexec hchanged
  by_contra hcon
  obtain ⟨hscratch, hnone⟩ := not_or.mp hcon
  refine hchanged (exec_byteKept hnone ?_ hexec).2
  rintro src dst rfl
  by_contra hin
  exact hscratch ⟨src, dst, rfl, by omega⟩

end

section
/-! SUPPORT. The descriptors of a framer request (42_framer.md R205, 20_memory.md R69): they are a function of its
operands, the parameters and the bytes of its buffers, and a request logs them in order as far as it comes. -/

namespace Sys2Proof.Machine

/-! ### The frames, from the operands and the memory at the start -/

/-- The bus takes the payload in one transfer; a longer one is answered ST_TOO_LONG and not logged (R151). -/
def Desc.fits (bc : Option BusCfg) (t : Desc) : Bool := bc.any fun bc => decide (t.tx.length ≤ bc.maxTransferSize)

/-- The frames of `chunkLoop` with memory `m`, from offset `off` on. -/
def chunkFrames (p : Params) (m : Memory) (data : Buf) : Nat → Nat → List Desc
  | 0, _ => []
  | n + 1, off =>
    if off < data.len then
      dataFrame (memBytes m (data.base + off) (chunkLen p data.len off)) ::
        chunkFrames p m data n (off + chunkLen p data.len off)
    else []

/-- Memory after the copy of an element. -/
def copyMem (p : Params) (src : Buf) (e : Nat) (dst : Buf) (e' : Nat) (m : Memory) : Memory :=
  memSetBytes m (dst.base + p.pixelBytes * e') (memBytes m (src.base + p.pixelBytes * e) p.pixelBytes)

/-- Memory after the copies of a loop, those of its pass `i` being `f i`. -/
def loopMem (f : Nat → Memory → Memory) : Nat → Memory → Memory
  | 0, m => m
  | n + 1, m => f n (loopMem f n m)

/-- Memory after output row `i` of the square transpose. -/
def rowMem (p : Params) (src dst : Buf) (i : Nat) : Memory → Memory :=
  loopMem (fun j => copyMem p src (j * p.rotW + i) dst (i * p.rotH + j)) p.rotH

/-- Memory after the square transpose. -/
def transposeMem (p : Params) (src dst : Buf) : Memory → Memory := loopMem (rowMem p src dst) p.rotW

/-- Memory after the gather of row-group `r`. -/
def gatherMem (p : Params) (src dst : Buf) (rows r : Nat) : Memory → Memory :=
  loopMem (fun k => copyMem p src (r + k * rows) dst k) (rotCols p dst)

/-- The frames of the fallback's row-groups from group `r` on. -/
def groupFrames (p : Params) (src dst : Buf) (rows : Nat) : Nat → Nat → Memory → List Desc
  | 0, _, _ => []
  | n + 1, r, m =>
    dataFrame (memBytes (gatherMem p src dst rows r m) dst.base dst.len) ::
      groupFrames p src dst rows n (r + 1) (gatherMem p src dst rows r m)

/-- The frames of `writeDataBody` with memory `m`. -/
def writeFrames (p : Params) (m : Memory) (data : Buf) : List Desc := hsFrame p :: chunkFrames p m data data.len 0

/-- The frames of `rotateStream` with memory `m`. -/
def streamFrames (p : Params) (m : Memory) (src dst : Buf) : List Desc :=
  hsFrame p :: groupFrames p src dst (rotRows src dst) (rotRows src dst) 0 m

/-- The frames of `rotateBody` with memory `m`, on its square path and on its fallback. -/
def rotateFrames (p : Params) (m : Memory) (src dst : Buf) : List Desc :=
  if dst.len = src.len then writeFrames p (transposeMem p src dst m) dst else streamFrames p m src dst

/-- The frames of `writeCmdBody` with memory `m`. -/
def cmdFrames (p : Params) (m : Memory) (c : BitVec 8) (b : Buf) : List Desc := [cmdFrame p c (memBytes m b.base b.len)]

/-- The frames of a framer request with memory `m`. -/
def Instr.frames (p : Params) (m : Memory) : Instr → List Desc
  | .writeCmd c params => cmdFrames p m c (paramBuf params)
  | .writeData data => writeFrames p m data
  | .writeDataRotate src dst => rotateFrames p m src dst
  | _ => []

/-! ### Memories that agree on the buffers held -/

/-- The memories hold the same bytes in each of the buffers. -/
def AgreeOn (bufs : List Buf) (m m' : Memory) : Prop :=
  ∀ b ∈ bufs, ∀ a, b.base ≤ a → a < b.base + b.len → memByte m a = memByte m' a

theorem AgreeOn.memBytes {bufs : List Buf} {m m' : Memory} (h : AgreeOn bufs m m') {b : Buf} (hb : b ∈ bufs)
    {off n : Nat} (hn : off + n ≤ b.len) : memBytes m (b.base + off) n = memBytes m' (b.base + off) n :=
  memBytes_congr fun i hi => h b hb _ (by omega) (by omega)

theorem AgreeOn.trans {bufs : List Buf} {m m' m'' : Memory} (h : AgreeOn bufs m m') (h' : AgreeOn bufs m' m'') :
    AgreeOn bufs m m'' := fun b hb a hlo hhi => (h b hb a hlo hhi).trans (h' b hb a hlo hhi)

/-- A byte that two memories agree on they agree on after the same store. -/
theorem memByte_memSetBytes_congr {m m' : Memory} (hm : m.wf = true) (hm' : m'.wf = true) (x : Nat)
    (bs : List Byte) {a : Nat} (h : memByte m a = memByte m' a) :
    memByte (memSetBytes m x bs) a = memByte (memSetBytes m' x bs) a := by
  by_cases hin : x ≤ a ∧ a < x + bs.length
  · obtain ⟨i, rfl⟩ := Nat.exists_eq_add_of_le hin.1
    have hi : i < bs.length := by omega
    rw [memByte_memSetBytes_same bs hm hi, memByte_memSetBytes_same bs hm' hi]
  · rw [memByte_memSetBytes_other _ _ (by omega), memByte_memSetBytes_other _ _ (by omega), h]

/-! ### A request on its way -/

/-- `u` has logged, since `s₀`, those of the frames `ts` that the bus takes. -/
def Logged (s₀ : State) (ts : List Desc) (u : State) : Prop :=
  u.log.map LogEntry.t = s₀.log.map LogEntry.t ++ ts.filter (Desc.fits s₀.buscfg)

theorem Logged.unique {s₀ u : State} {ts ts' : List Desc} (h : Logged s₀ ts u) (h' : Logged s₀ ts' u) :
    ts.filter (Desc.fits s₀.buscfg) = ts'.filter (Desc.fits s₀.buscfg) :=
  List.append_cancel_left (h.symm.trans h')

/-- A request that started in `s₀` and has the frames `all` has ended early in `u`: it did not return OK, and has come
to some point of them. -/
def CutShort (s₀ : State) (all : List Desc) (u : State) : Prop :=
  u.ret ≠ .code .ok ∧ ∃ done, done <+: all ∧ Logged s₀ done u

/-- A request that started in `s₀` and holds the buffers `bufs` has, of its frames `all`, those in `left` still to
send; its buffers hold what they hold in `m`. -/
structure Sending (s₀ : State) (bufs : List Buf) (all : List Desc) (m : Memory) (left : List Desc) (u : State) :
    Prop where
  params : u.params = s₀.params
  buscfg : u.buscfg = s₀.buscfg
  held : u.held = bufs
  wf : u.mem.wf = true
  wfModel : m.wf = true
  agree : AgreeOn bufs u.mem m
  logged : ∃ done, done ++ left = all ∧ Logged s₀ done u

/-- A call after which the frames in `left'` are still to send and the buffers hold what they hold in `m'`, or that
is cut short. -/
abbrev Sends {α : Type} (s₀ : State) (bufs : List Buf) (all : List Desc) (m' : Memory) (left' : List Desc)
    (c : Call α) : Prop :=
  Ends (CutShort s₀ all) (fun _ u => Sending s₀ bufs all m' left' u) c

/-- A call that logs the frames `all`, as far as the bus takes them, or is cut short. -/
abbrev LogsAll {α : Type} (s₀ : State) (all : List Desc) (c : Call α) : Prop :=
  Ends (CutShort s₀ all) (fun _ u => Logged s₀ all u) c

variable {s₀ s u : State} {bufs : List Buf} {all left : List Desc} {m : Memory}

theorem Sending.cutShort (h : Sending s₀ bufs all m left s) (hlog : u.log = s.log) (hret : u.ret ≠ .code .ok) :
    CutShort s₀ all u := by
  obtain ⟨done, rfl, hdone⟩ := h.logged
  exact ⟨hret, done, List.prefix_append _ _, by rwa [Logged, hlog]⟩

theorem Sending.start (hs : s.mem.wf = true) : Sending s bufs all s.mem all (setHeld bufs (clearErr s)) where
  params := rfl
  buscfg := rfl
  held := rfl
  wf := hs
  wfModel := hs
  agree _ _ _ _ _ := rfl
  logged := ⟨[], rfl, by simp [Logged]⟩

theorem Sending.setPos (op : SeqOp) (pos : Pos) (h : Sending s₀ bufs all m left s) :
    Sending s₀ bufs all m left (setPos op pos s) := { h with }

theorem Sending.all_logged (h : Sending s₀ bufs all m [] s) : Logged s₀ all s := by
  obtain ⟨done, rfl, hdone⟩ := h.logged
  rwa [List.append_nil]

/-- The other threads leave the buffers alone. -/
theorem Sending.passed (hu : TimePassed s u) (h : Sending s₀ bufs all m left s) :
    Sending s₀ bufs all m left u := by
  have hmem : AgreeOn bufs u.mem s.mem := fun b hb a hlo hhi => hu.held (h.held ▸ hb) hlo hhi
  have hwf : u.mem.wf = true := hu.elim fun _ hcame => hcame.wf h.wf
  rw [hu.eq]
  exact { h with wf := hwf, agree := hmem.trans h.agree }

/-! ### One frame -/

/-- A frame that was answered is logged where the bus takes it. -/
theorem Sending.answered {t : Desc} {st : Nat} (hu : FrameTooLong t st s u ∨ FrameSent t st s u)
    (h : Sending s₀ bufs all m (t :: left) s) : Sending s₀ bufs all m left u := by
  obtain ⟨done, hall, hdone⟩ := h.logged
  have hall' : (done ++ [t]) ++ left = all := by rw [← hall, List.append_assoc, List.singleton_append]
  rcases hu with ⟨hpass, -, bc, hbc, hlong⟩ | ⟨dc, ⟨-, -, -, -, bc, hbc, hfits⟩, k, o, w, -, hpass, rfl⟩
  · have hskip : Desc.fits s₀.buscfg t = false := by simp [Desc.fits, ← h.buscfg, hbc, hlong]
    refine { h.passed hpass with logged := ⟨done ++ [t], hall', ?_⟩ }
    rw [hpass.eq]
    simpa [Logged, hskip] using hdone
  · have htake : Desc.fits s₀.buscfg t = true := by simp [Desc.fits, ← h.buscfg, hbc, hfits]
    refine { h.passed hpass with logged := ⟨done ++ [t], hall', ?_⟩ }
    have hlog : w.log = s.log := by rw [hpass.eq]
    simp only [Logged] at hdone
    simp [Logged, afterFrame, htake, hlog, hdone]

/-- Where a transmit does not return, its frame is not logged. -/
theorem Sending.unanswered {t : Desc} (hu : TransmitStops t s u ∨ FrameHangs t s u ∨ FrameCut t s u)
    (h : Sending s₀ bufs all m left s) : CutShort s₀ all u := by
  rcases hu with hu | ⟨dc, -, j, ph, b, l, o, w, -, hw, rfl, -⟩ |
    ⟨v, ⟨dc, -, j, ph, b, l, o, w, -, hw, rfl, -⟩ | hv, rfl⟩
  · rcases hu with ⟨-, rfl⟩ | ⟨-, rfl⟩ | ⟨-, -, -, rfl⟩ <;> exact h.cutShort rfl (by simp)
  · exact (h.passed hw).cutShort rfl (by simp [hungFrame])
  · exact (h.passed hw).cutShort rfl (by simp)
  · exact (h.passed hv).cutShort rfl (by simp)

theorem Sending.framedSend (op : OpName) (off : Option Nat) {t : Desc}
    (h : Sending s₀ bufs all m (t :: left) s) : Sends s₀ bufs all m left (framedSend op off t s) := by
  refine (framedSend_ends op off t s).imp ?_ ?_
  · rintro u (hu | hu | hu | ⟨st, v, -, -, hv, rfl⟩)
    · exact h.unanswered (.inl hu)
    · exact h.unanswered (.inr (.inl hu))
    · exact h.unanswered (.inr (.inr hu))
    · exact (h.answered hv).cutShort rfl (by simp)
  · rintro - u ⟨st, hu, -⟩
    exact h.answered hu

/-- A read of a buffer held gives the bytes of `m`. -/
theorem Sending.memRead {b : Buf} (hb : b ∈ bufs) (off n : Nat) (h : Sending s₀ bufs all m left s) :
    Ends (CutShort s₀ all) (fun v u => v = memBytes m (b.base + off) n ∧ Sending s₀ bufs all m left u)
      (memRead b off n s) := by
  refine (memRead_ends b off n s).imp ?_ ?_
  · rintro u ⟨-, rfl⟩
    exact h.cutShort rfl (by simp)
  · rintro v u ⟨hin, rfl, rfl⟩
    exact ⟨h.agree.memBytes hb hin, h⟩

/-! ### WRITE_CMD and WRITE_DATA -/

theorem Sending.chunkLoop (op : SeqOp) (at' : Pos → Pos) {data : Buf} (hb : data ∈ bufs) :
    ∀ (n off : Nat) (s : State), Sending s₀ bufs all m (chunkFrames s₀.params m data n off ++ left) s →
      Sends s₀ bufs all m left (chunkLoop op at' data n off s)
  | 0, off, s, h => by
    unfold Machine.chunkLoop
    split
    · exact h.cutShort rfl (by simp)
    · exact h
  | n + 1, off, s, h => by
    unfold Machine.chunkLoop
    unfold chunkFrames at h
    split
    · rw [if_pos ‹_›, List.cons_append] at h
      refine Ends.andThen ((h.setPos _ _).memRead hb _ _) ?_
      rintro - u ⟨rfl, hu⟩
      rw [h.params]
      refine Ends.andThen (hu.framedSend _ _) fun _ v hv => ?_
      rw [hv.params]
      exact Sending.chunkLoop op at' hb n _ v hv
    · rwa [if_neg ‹_›] at h

theorem Sending.writeDataBody (op : SeqOp) (at' : Pos → Pos) {data : Buf} (hb : data ∈ bufs)
    (h : Sending s₀ bufs all m (writeFrames s₀.params m data) s) :
    LogsAll s₀ all (writeDataBody op at' data s) := by
  unfold Machine.writeDataBody
  rw [h.params]
  refine Ends.andThen ((h.setPos _ _).framedSend _ _) fun _ u hu => ?_
  refine Ends.andThen (Sending.chunkLoop (left := []) op at' hb _ _ u (by rwa [List.append_nil])) fun _ v hv => ?_
  exact hv.all_logged

theorem writeCmdBody_logsAll (c : BitVec 8) (b : Buf) (hs : s.mem.wf = true) :
    LogsAll s (cmdFrames s.params s.mem c b) (writeCmdBody c b s) := by
  have h := Sending.start (bufs := [b]) (all := cmdFrames s.params s.mem c b) hs
  refine (readField_ends _ _).andThen' ?_ ?_
  · rintro u ⟨-, rfl⟩
    exact h.cutShort rfl (by simp)
  · rintro bc u ⟨-, rfl⟩
    split
    · exact h.cutShort rfl (by simp)
    · refine Ends.andThen ((h.setPos .writeCmd .frame).memRead (List.mem_singleton_self b) 0 b.len) ?_
      rintro - u ⟨rfl, hu⟩
      rw [hu.params]
      exact Ends.andThen (hu.framedSend _ _) fun _ v hv => hv.all_logged

/-! ### WRITE_DATA_ROTATE -/

theorem Sending.store (x : Nat) (v : List Byte) (h : Sending s₀ bufs all m left s) :
    Sending s₀ bufs all (memSetBytes m x v) left { s with mem := memSetBytes s.mem x v } :=
  { h with
    wf := memSetBytes_wf _ _ h.wf
    wfModel := memSetBytes_wf _ _ h.wfModel
    agree := fun b hb a hlo hhi => memByte_memSetBytes_congr h.wf h.wfModel _ _ (h.agree b hb a hlo hhi) }

theorem Sending.copyElem {src dst : Buf} (hsrc : src ∈ bufs) (e e' : Nat) (h : Sending s₀ bufs all m left s) :
    Sends s₀ bufs all (copyMem s₀.params src e dst e' m) left (copyElem src e dst e' s) := by
  refine (passPoint_ends s).andThen' ?_ fun _ u hu => ?_
  · rintro r ⟨u, hu, rfl⟩
    exact (h.passed hu).cutShort rfl (by simp)
  · have hu := h.passed hu
    refine Ends.andThen (hu.memRead hsrc _ _) ?_
    rintro - v ⟨rfl, hv⟩
    rw [hu.params, hv.params]
    refine (memWrite_ends _ _ _ _).imp ?_ ?_
    · rintro w ⟨-, rfl⟩
      exact hv.cutShort rfl (by simp)
    · rintro - w ⟨-, rfl⟩
      exact hv.store _ _

/-- A loop of copies takes the buffers to what `loopMem` says. -/
theorem Sending.forLoop {body : Nat → State → Call Unit} {f : Nat → Memory → Memory} (n : Nat)
    (hbody : ∀ i m s, Sending s₀ bufs all m left s → Sends s₀ bufs all (f i m) left (body i s))
    (h : Sending s₀ bufs all m left s) : Sends s₀ bufs all (loopMem f n m) left (forLoop body n 0 s) := by
  have hloop := Ends.forLoop (P := CutShort s₀ all) (I := fun i u => Sending s₀ bufs all (loopMem f i m) left u)
    (body := body) n 0 s h fun i u _ _ hu => hbody i _ u hu
  rwa [Nat.zero_add] at hloop

theorem Sending.transpose {src dst : Buf} (hsrc : src ∈ bufs) (h : Sending s₀ bufs all m left s) :
    Sends s₀ bufs all (transposeMem s₀.params src dst m) left (transpose src dst s) := by
  unfold Machine.transpose
  rw [h.params]
  refine h.forLoop _ fun i m u hu => ?_
  unfold transposeRow
  rw [hu.params]
  refine hu.forLoop _ fun j m v hv => ?_
  rw [hv.params]
  exact hv.copyElem hsrc _ _

theorem Sending.gatherGroup {src dst : Buf} (hsrc : src ∈ bufs) (rows r : Nat)
    (h : Sending s₀ bufs all m left s) :
    Sends s₀ bufs all (gatherMem s₀.params src dst rows r m) left (gatherGroup src dst rows r s) := by
  unfold Machine.gatherGroup
  rw [h.params]
  exact h.forLoop _ fun k m u hu => hu.copyElem hsrc _ _

theorem Sending.rotateGroups {src dst : Buf} (hsrc : src ∈ bufs) (hdst : dst ∈ bufs) (rows : Nat) :
    ∀ (n r : Nat) (m : Memory) (s : State),
      Sending s₀ bufs all m (groupFrames s₀.params src dst rows n r m) s →
      LogsAll s₀ all (Machine.forLoop (rotateGroup src dst rows) n r s)
  | 0, r, m, s, h => h.all_logged
  | n + 1, r, m, s, h => by
    rw [forLoop_succ]
    refine Ends.andThen (Q := fun _ u => Sending s₀ bufs all (gatherMem s₀.params src dst rows r m) _ u) ?_
      fun _ u hu => Sending.rotateGroups hsrc hdst rows n (r + 1) _ u hu
    refine Ends.andThen ((h.setPos _ _).gatherGroup hsrc rows r) fun _ u hu => ?_
    refine Ends.andThen (hu.memRead hdst _ _) ?_
    rintro - v ⟨rfl, hv⟩
    exact hv.framedSend _ _

theorem rotateSquare_logsAll (src dst : Buf) (hs : s.mem.wf = true) :
    LogsAll s (writeFrames s.params (transposeMem s.params src dst s.mem) dst)
      (rotateSquare src dst (clearErr s)) := by
  have h := Sending.start (bufs := [src, dst])
    (all := writeFrames s.params (transposeMem s.params src dst s.mem) dst) hs
  unfold rotateSquare
  split
  · exact h.cutShort rfl (by simp)
  · exact Ends.andThen ((h.setPos _ _).transpose (by simp)) fun _ u hu => hu.writeDataBody _ _ (by simp)

theorem rotateFallback_logsAll (src dst : Buf) (hs : s.mem.wf = true) :
    LogsAll s (streamFrames s.params s.mem src dst) (rotateFallback src dst (clearErr s)) := by
  have h := Sending.start (bufs := [src, dst]) (all := streamFrames s.params s.mem src dst) hs
  unfold rotateFallback
  split
  · exact h.cutShort rfl (by simp)
  · refine (readField_ends _ _).andThen' ?_ ?_
    · rintro u ⟨-, rfl⟩
      exact h.cutShort rfl (by simp)
    · rintro bc u ⟨-, rfl⟩
      split
      · exact h.cutShort rfl (by simp)
      · refine Ends.andThen ((h.setPos _ _).framedSend _ _) fun _ v hv => ?_
        exact Ends.andThen (hv.rotateGroups (by simp) (by simp) _ _ _ _ v) fun _ w hw => hw

theorem rotateBody_logsAll (src dst : Buf) (hs : s.mem.wf = true) :
    LogsAll s (rotateFrames s.params s.mem src dst) (rotateBody src dst s) := by
  unfold rotateBody
  split
  · exact (Sending.start (bufs := []) hs).cutShort rfl (by simp)
  · unfold rotateFrames
    split
    · exact rotateSquare_logsAll src dst hs
    · exact rotateFallback_logsAll src dst hs

/-! ### The request -/

/-- What a request that has ended in `t` has logged of its frames `all`. -/
def LoggedUpTo (s : State) (all : List Desc) (t : State) : Prop :=
  (∃ done, done <+: all ∧ Logged s done t) ∧ (t.ret = .code .ok → Logged s all t)

theorem finish_loggedUpTo {body : State → Call Unit} {t : State} (hs : s.mem.wf = true)
    (hb : LogsAll s all (body s))
    (h : finish (fun _ => .code .ok) (andThen (requireActive s) fun _ s => body s) = .next t) :
    LoggedUpTo s all t := by
  have hc : LogsAll s all (andThen (requireActive s) fun _ s => body s) := by
    refine (requireActive_ends s).andThen' ?_ ?_
    · rintro u ⟨-, rfl⟩
      exact (Sending.start (bufs := []) hs).cutShort rfl (by simp)
    · rintro - u ⟨-, rfl⟩
      exact hb
  rcases finish_ends hc h with ⟨hret, hdone⟩ | ⟨-, u, hu, rfl⟩
  · exact ⟨hdone, fun hok => absurd hok hret⟩
  · exact ⟨⟨all, List.prefix_rfl, hu⟩, fun _ => hu⟩

/-- A framer request logs its frames in order as far as it comes, and all of them where it returns OK. -/
theorem exec_loggedUpTo {i : Instr} {t : State} (hi : Instr.Framer i) (hs : s.mem.wf = true)
    (h : exec i s = .next t) : LoggedUpTo s (Instr.frames s.params s.mem i) t := by
  match i, hi with
  | .writeCmd c params, _ => exact finish_loggedUpTo hs (writeCmdBody_logsAll c _ hs) h
  | .writeData data, _ =>
    exact finish_loggedUpTo (body := fun s => writeDataBody .writeData id data (setHeld [data] (clearErr s))) hs
      ((Sending.start hs).writeDataBody .writeData id (List.mem_singleton_self data)) h
  | .writeDataRotate src dst, _ => exact finish_loggedUpTo hs (rotateBody_logsAll src dst hs) h

end Sys2Proof.Machine

open Sys2Proof Sys2Proof.Machine

/-- Settles O47: both runs log, of one list of frames that the operands and the buffers give, those that the bus
takes, each as far as it comes. -/
theorem framingIsDeterministic : Obligations.FramingIsDeterministic := by
  intro i s s' t t' hi hparams hmem hbus hwf hexec hexec'
  obtain ⟨⟨done, hpre, hdone⟩, hall⟩ := exec_loggedUpTo hi hwf hexec
  obtain ⟨⟨done', hpre', hdone'⟩, hall'⟩ := exec_loggedUpTo hi (hmem ▸ hwf) hexec'
  rw [← hparams, ← hmem] at hpre' hall'
  refine ⟨_, _, hdone, hdone', ?_, fun hok => ?_, fun hok hok' => ?_⟩ <;> rw [← hbus]
  · exact (List.prefix_or_prefix_of_prefix hpre hpre').imp (·.filter _) (·.filter _)
  · rw [hdone.unique (hall hok)]
    exact hpre'.filter _
  · rw [hdone.unique (hall hok), hbus, hdone'.unique (hall' hok')]

end

section
/-! SUPPORT. What the decoder reads from a request word and from a frame key (30_encoding.md R80, R84, R94, R95,
R97). -/

namespace Sys2Proof

/-! ### Request words -/

theorem reqReserved_eq_div (req : BitVec 8) : reqReserved req = req.toNat / 16 := by
  rw [reqReserved, BitVec.extractLsb'_toNat, Nat.shiftRight_eq_div_pow]
  omega

theorem reqOp_eq_mod (req : BitVec 8) : reqOp req = req.toNat % 16 := by
  rw [reqOp, BitVec.extractLsb'_toNat, Nat.shiftRight_zero]

theorem decodeHost_of_reserved_bits {req : BitVec 8} (h : req.toNat / 16 ≠ 0) (o : Operands) :
    decodeHost req o = .reservedOp :=
  if_pos (by rwa [reqReserved_eq_div])

theorem decodeHost_of_reserved_op {req : BitVec 8} (h : req.toNat % 16 ∈ [0x0, 0x7, 0xD, 0xE, 0xF])
    (o : Operands) : decodeHost req o = .reservedOp := by
  by_cases hbits : req.toNat / 16 = 0
  · rw [← reqOp_eq_mod] at h
    rw [← reqReserved_eq_div] at hbits
    simp only [List.mem_cons, List.not_mem_nil, or_false] at h
    rcases h with h | h | h | h | h <;> simp [decodeHost, hbits, h]
  · exact decodeHost_of_reserved_bits hbits o

/-- The opcodes 8 to 12 are those of the controller primitives. -/
theorem decodeHost_of_internal {req : BitVec 8} (h : req.toNat ∈ [0x8, 0x9, 0xA, 0xB, 0xC]) (o : Operands) :
    decodeHost req o = .internalOp := by
  simp only [List.mem_cons, List.not_mem_nil, or_false] at h
  rcases h with h | h | h | h | h <;> simp [decodeHost, reqReserved_eq_div, reqOp_eq_mod, h]

/-! ### Frame keys -/

/-- R95's mask of HS_FRAME and of DATA_FRAME is the whole key. -/
theorem and_wholeKey (fk : BitVec 48) : fk &&& 0xFFFFFFFFFFFF = fk := BitVec.and_allOnes

/-- `C` is FK[15:8] (R94). -/
theorem cmdFrameKey_c : ∀ c : BitVec 8, (cmdFrameKey c).extractLsb' 8 8 = c := by
  decide

/-- The rows of CMD_FRAME and HS_FRAME have no key in common. -/
theorem ne_hsKey_of_cmdRow {fk : BitVec 48} (h : fk &&& 0xFFFFFFFF00FF = 0x021002000000) :
    fk &&& 0xFFFFFFFFFFFF ≠ 0x000232002C00 := by
  rw [and_wholeKey]
  rintro rfl
  exact absurd h (by decide)

/-- The rows of CMD_FRAME and DATA_FRAME have no key in common. -/
theorem ne_dataKey_of_cmdRow {fk : BitVec 48} (h : fk &&& 0xFFFFFFFF00FF = 0x021002000000) :
    fk &&& 0xFFFFFFFFFFFF ≠ 0x00E200000000 := by
  rw [and_wholeKey]
  rintro rfl
  exact absurd h (by decide)

theorem frameKind_cmdFrameKey (c : BitVec 8) : frameKind (cmdFrameKey c) = .cmd c := by
  rw [frameKind, if_pos (Laws.Row.cmdFrameKey_matches c), cmdFrameKey_c]

/-- A key that matches no row of R95's table is of no framer kind. -/
theorem frameKind_raw {fk : BitVec 48} (hcmd : fk &&& 0xFFFFFFFF00FF ≠ 0x021002000000)
    (hhs : fk &&& 0xFFFFFFFFFFFF ≠ 0x000232002C00) (hdata : fk &&& 0xFFFFFFFFFFFF ≠ 0x00E200000000) :
    frameKind fk = .raw := by
  rw [frameKind, if_neg hcmd, if_neg hhs, if_neg hdata]

theorem decodeFrame_of_raw {fk : BitVec 48} (h : frameKind fk = .raw) (handle : Nat) (tx : List Byte) :
    decodeFrame handle fk tx = .ok (.pollingTransmit handle (.ofKey fk tx)) := by
  simp [decodeFrame, h]

theorem decodeFrame_cmdFrameKey (handle : Nat) (c : BitVec 8) (tx : List Byte) :
    decodeFrame handle (cmdFrameKey c) tx = .ok (.cmdFrame c tx) := by
  simp [decodeFrame, frameKind_cmdFrameKey]

namespace Machine

theorem key_hsFrame {p : Params} (hcmd : p.hsCmd = 0x32) (haddr : p.hsAddr = 0x002C00) :
    (hsFrame p).key = 0x000232002C00 := by
  rw [key_of_fields, hsFrame, hcmd, haddr]
  decide

theorem key_dataFrame (tx : List Byte) : (dataFrame tx).key = 0x00E200000000 := by
  rw [key_of_fields]
  simp only [dataFrame]
  decide

/-! ### What a refused request does -/

theorem fetchPacket_of_decode_reserved {p : Packet} (h : decode p = .reservedOp) (s : State) :
    fetchPacket p s = .refuse .reservedOp := by
  simp [fetchPacket, h]

theorem fetchPacket_of_decode_internal {p : Packet} (h : decode p = .internalOp) (s : State) :
    fetchPacket p s = .refuse .internalOp := by
  simp [fetchPacket, h]

theorem step_of_fetch_refuse {s : State} {r : Refusal} (h : fetch s = .refuse r) :
    step s = .next (setRefused r s) := by
  simp [step, h]

/-- A machine that is ready, and whose next packet is refused, sets the mark and leaves the packet where it is. -/
theorem step_of_packet_refused {s : State} {p : Packet} {es : List Event} {r : Refusal} (hready : ReadyToTake s)
    (hinbox : s.inbox = .packet p :: es) (h : ∀ u, fetchPacket p u = .refuse r) :
    step s = .next (setRefused r s) := by
  apply step_of_fetch_refuse
  rw [fetch_of_readyToTake hready, fetchIdle_of_packet hinbox, h]

/-- The selectors that name an attribute are 0 to 8. -/
theorem attrOf_of_reserved (c : Cfg) {sel : BitVec 4} (h : 9 ≤ sel.toNat) : attrOf c sel = none := by
  unfold attrOf
  split
  any_goals omega
  rfl

theorem execReadAttr_of_reserved {s : State} {sel : BitVec 4} (hlife : s.life = .active)
    (hcfg : s.cfg.isSome = true) (hsel : 9 ≤ sel.toNat) :
    execReadAttr sel s = .next (setRefused .reservedOp s) := by
  obtain ⟨c, hc⟩ := Option.isSome_iff_exists.mp hcfg
  simp [execReadAttr, requireActive_of_active hlife, hc, attrOf_of_reserved c hsel]

theorem checkedSend_of_not_wf {s : State} {t : Desc} {dc : DevCfg} (hdc : s.devcfg = some dc)
    (hwf : t.wf s.params.multiline dc = false) : checkedSend t s = .stop (setRefused .descriptor s) := by
  simp [checkedSend, hdc, hwf]

end Machine

end Sys2Proof

open Sys2Proof Sys2Proof.Machine

/-- Settles O3: the decoder reads each request word and frame key as the encoder wrote it; of the keys only that of
CMD_FRAME carries an operand. -/
theorem decodeOfEncode : Obligations.DecodeOfEncode := by
  intro i
  cases i with
  | init busId sck pins baudrate polarity phase => rfl
  | deinit => rfl
  | writeCmd c params => rfl
  | writeData data => rfl
  | writeDataRotate data scratch => rfl
  | readAttr sel => rfl
  | busInitialize controllerId bc => rfl
  | deviceAttach controllerId dc => rfl
  | deviceDetach handle => rfl
  | busFree controllerId => rfl
  | pollingTransmit handle t => rfl
  | cmdFrame c tx => exact decodeFrame_cmdFrameKey 0 c tx
  | hsFrame => rfl
  | dataFrame tx => rfl

/-- Settles O4, by running the decoder on each word. -/
theorem tableWordsDecode : Obligations.TableWordsDecode := by
  unfold Obligations.TableWordsDecode
  decide

/-- Settles O5: the decoder refuses the request words, READ_ATTR its selector, and POLLING_TRANSMIT its
descriptor. -/
theorem reservedEncodingsRefused : Obligations.ReservedEncodingsRefused := by
  refine ⟨fun s req ops es hready hinbox => ⟨fun hbits => ?_, fun hop => ?_, fun hinternal => ?_⟩,
    fun s sel hlife hcfg hsel => execReadAttr_of_reserved hlife hcfg hsel,
    fun s h dc bc t hatt hwf => ?_, fun c ops => rfl⟩
  · exact step_of_packet_refused hready hinbox
      (fetchPacket_of_decode_reserved (decodeHost_of_reserved_bits hbits ops))
  · exact step_of_packet_refused hready hinbox
      (fetchPacket_of_decode_reserved (decodeHost_of_reserved_op hop ops))
  · exact step_of_packet_refused hready hinbox
      (fetchPacket_of_decode_internal (decodeHost_of_internal hinternal ops))
  · obtain ⟨hdev, hhandle, hdc, -⟩ := hatt
    show finish .status (pollingTransmit h t s) = _
    rw [pollingTransmit_of hdev hhandle, checkedSend_of_not_wf hdc hwf, finish_stop]

/-- Settles O6: the key of each frame is a key of its row, and the rows have none in common. -/
theorem frameKeyMatchesOneRow : Obligations.FrameKeyMatchesOneRow := by
  refine ⟨fun p c tx hcmd => ?_, fun p hcmd haddr => ?_, fun tx => ?_, fun h fk tx hcmd hhs hdata => ?_⟩
  · rw [key_cmdFrame c tx hcmd]
    have hrow := Laws.Row.cmdFrameKey_matches c
    exact ⟨hrow, ne_hsKey_of_cmdRow hrow, ne_dataKey_of_cmdRow hrow, cmdFrameKey_c c⟩
  · rw [key_hsFrame hcmd haddr]
    decide
  · rw [key_dataFrame]
    decide
  · exact decodeFrame_of_raw (frameKind_raw hcmd hhs hdata) h tx

end

section
/-! SUPPORT. A device that is detached stays so through a framer request, and what the bus manager does never
reaches the log or the wire (40_bus_manager.md R126). -/

namespace Sys2Proof.Machine

/-- Nothing was logged and nothing driven between `s` and `u`. -/
def Unsent (s u : State) : Prop := u.log = s.log ∧ u.wire = s.wire

/-- As `Unsent`, and the device is detached. -/
def UnsentDetached (s u : State) : Prop := u.dev = .detached ∧ Unsent s u

theorem UnsentDetached.not_sends {t : Desc} {dc : DevCfg} {s u : State} (h : UnsentDetached s u) :
    ¬ TransmitSends t dc u := by
  rintro ⟨hatt, -⟩
  simp [h.1] at hatt

theorem framerKeeps_unsent (s : State) : FramerKeeps (UnsentDetached s) (Unsent s) where
  fault _ _ _ _ h := h.2
  unwritten _ _ h := h.2
  refused _ _ _ h := h.2
  illFormed _ _ _ _ _ _ h := h.2
  raise _ _ _ _ _ _ h := h.2
  clearErr _ h := h
  setPos _ _ _ h := h
  setHeld _ _ h := h
  setReqIdle _ h := h
  sent _ _ _ _ hu h := hu.elim fun _ hs => (h.not_sends hs.1).elim
  passed _ _ hu h := hu.eq ▸ h
  hangs _ _ _ hu h := hu.elim fun _ hs => (h.not_sends hs.1).elim
  cut _ _ _ hu h := hu.elim fun _ hs => (h.not_sends hs.1).elim

theorem busKeeps_unsent (s : State) : BusKeeps (Unsent s) (Unsent s) where
  fault _ _ _ h := h
  refused _ _ h := h
  raise _ _ _ _ _ _ h := h
  clearErr _ h := h
  oracle _ _ h := h
  writeBuscfg _ _ h := h
  writeDevcfg _ _ h := h
  storeHandle g _ h := by cases g <;> exact h
  clearDevcfg _ h := h
  clearBuscfg _ h := h
  life _ _ _ h := h

end Sys2Proof.Machine

open Sys2Proof Sys2Proof.Machine

/-- Settles O19: a frame that is sent finds its device attached, and only a frame that is sent is logged or driven. -/
theorem noFrameWhileDetached : Obligations.NoFrameWhileDetached := by
  intro i s t hdev hexec
  have hs : UnsentDetached s s := ⟨hdev, rfl, rfl⟩
  by_cases hsends : Instr.Sends i
  · exact exec_keeps_of_sends (framerKeeps_unsent s) (fun _ _ h => h.2) hs (fun _ _ _ _ _ _ _ h => h)
      (fun _ _ _ => hs.2) hsends hexec
  · exact exec_keeps_of_not_sends (busKeeps_unsent s) (fun _ _ h => h) hs.2 hsends hexec

end

section
/-! SUPPORT. The primitives of the bus manager in the wrong bus or device state (40_bus_manager.md R121, R123, R125,
R127). -/

namespace Sys2Proof.Machine

variable {s : State}

theorem busInitialize_of_not_free (bc : BusReq) (h : s.bus ≠ .free) :
    busInitialize bc s = .stop (setFault .lifecycle s) := if_neg h

theorem deviceAttach_of_wrong (dc : DevCfg) (h : s.bus ≠ .ready ∨ s.dev ≠ .detached) :
    deviceAttach dc s = .stop (setFault .lifecycle s) := if_neg (not_and_or.mpr h)

theorem busFree_of_wrong (h : s.bus ≠ .ready ∨ s.dev ≠ .detached) :
    busFree s = .stop (setFault .lifecycle s) := if_neg (not_and_or.mpr h)

theorem deviceDetach_of_not_attached (g : Nat) (h : s.dev ≠ .attached) :
    deviceDetach g s = .stop (setFault .lifecycle s) := by
  rw [deviceDetach, attachedHandle, if_neg h, andThen_stop]

theorem deviceDetach_of_other_handle {g g' : Nat} (hdev : s.dev = .attached) (hhandle : s.devHandle = some g')
    (h : g ≠ g') : deviceDetach g s = .stop (setFault .lifecycle s) := by
  rw [deviceDetach, attachedHandle_of hdev hhandle, andThen_ret, if_neg h]

end Sys2Proof.Machine

open Sys2Proof Sys2Proof.Machine

/-- Settles O21, by the status drawn. -/
theorem busInitializeWritesBus : Obligations.BusInitializeWritesBus := by
  intro s s' id bc st hdraw
  refine ⟨fun hfree hst => ?_, fun hfree hst => ?_, fun hbus => ?_⟩ <;>
    show finish .status (busInitialize bc s) = _
  · subst hst
    rw [busInitialize_of bc hfree hdraw, if_pos rfl, finish_ret, drawBusInit_eq hdraw]
    rfl
  · rw [busInitialize_of bc hfree hdraw, if_neg hst, finish_ret, drawBusInit_eq hdraw]
    rfl
  · rw [busInitialize_of_not_free bc hbus, finish_stop]

/-- Settles O22, by the status drawn. -/
theorem deviceAttachWritesDevice : Obligations.DeviceAttachWritesDevice := by
  intro s s' id dc st h hdraw
  refine ⟨fun hready hdev hst => ?_, fun hready hdev hst => ?_, fun hwrong => ?_⟩ <;>
    show finish _ (andThen (deviceAttach dc s) fun r s => .ret r (storeHandle r.2 s)) = _
  · rw [deviceAttach_of dc hready hdev hdraw, if_pos hst, andThen_ret, finish_ret, drawAttach_eq hdraw]
    rfl
  · rw [deviceAttach_of dc hready hdev hdraw, if_neg hst, andThen_ret, finish_ret, drawAttach_eq hdraw]
    rfl
  · rw [deviceAttach_of_wrong dc hwrong, andThen_stop, finish_stop]

/-- Settles O23: whatever status is drawn, it is not looked at. -/
theorem deviceDetachClearsDevice : Obligations.DeviceDetachClearsDevice := by
  intro s s' h st hdraw
  refine ⟨fun hdev hhandle => ?_, fun hdev => ?_, fun h' hdev hhandle hne => ?_⟩ <;>
    show finish _ (deviceDetach h s) = _
  · rw [deviceDetach_of hdev hhandle hdraw, finish_ret, drawDetach_eq hdraw]
    rfl
  · rw [deviceDetach_of_not_attached h hdev, finish_stop]
  · rw [deviceDetach_of_other_handle hdev hhandle hne, finish_stop]

/-- Settles O24: whatever status is drawn, it is not looked at. -/
theorem busFreeClearsBus : Obligations.BusFreeClearsBus := by
  intro s s' id st hdraw
  refine ⟨fun hready hdev => ?_, fun hwrong => ?_⟩ <;> show finish _ (busFree s) = _
  · rw [busFree_of hready hdev hdraw, finish_ret, drawBusFree_eq hdraw]
    rfl
  · rw [busFree_of_wrong hwrong, finish_stop]

end

section
/-! SUPPORT. INIT, one equation per way it goes: where its checks stop it, and what the two primitives answer
(40_bus_manager.md R120, R128, R129). -/

namespace Sys2Proof.Machine

/-! ### The pins -/

theorem resolvePins_of {p : Params} {sck a b c d g g0 g1 g2 g3 : Nat} (h : resolvePin p sck = some g)
    (h0 : resolvePin p a = some g0) (h1 : resolvePin p b = some g1) (h2 : resolvePin p c = some g2)
    (h3 : resolvePin p d = some g3) : resolvePins p sck ⟨a, b, c, d⟩ = some (g, ⟨g0, g1, g2, g3⟩) := by
  simp only [resolvePins, h, h0, h1, h2, h3]

/-- Pins that all resolve have their GPIO indices. -/
theorem exists_resolvePins {p : Params} {sck a b c d : Nat}
    (h : ∀ pin ∈ [sck, a, b, c, d], (resolvePin p pin).isSome = true) :
    ∃ g q, some g = resolvePin p sck ∧
      [some q.d0, some q.d1, some q.d2, some q.d3] = [a, b, c, d].map (resolvePin p) ∧
      resolvePins p sck ⟨a, b, c, d⟩ = some (g, q) := by
  simp only [List.forall_mem_cons, Option.isSome_iff_exists] at h
  obtain ⟨⟨g, hg⟩, ⟨g0, h0⟩, ⟨g1, h1⟩, ⟨g2, h2⟩, ⟨g3, h3⟩, -⟩ := h
  exact ⟨g, ⟨g0, g1, g2, g3⟩, hg.symm, by simp [h0, h1, h2, h3], resolvePins_of hg h0 h1 h2 h3⟩

/-- One pin that does not resolve is enough. -/
theorem resolvePins_eq_none {p : Params} {sck a b c d : Nat}
    (h : ∃ pin ∈ [sck, a, b, c, d], resolvePin p pin = none) : resolvePins p sck ⟨a, b, c, d⟩ = none := by
  unfold resolvePins
  split
  · simp_all
  · rfl

/-! ### The checks (R128) -/

section

variable {s : State} {sck baud a b c d g : Nat} {q : Quad Nat} {pol ph : Option Nat}

theorem initCheck_of_count {pins : List Nat} (h : pins.length ≠ s.params.numDataLines) :
    initCheck sck pins baud pol ph s = .stop (raise .configArgcount .initRequest none none s) := if_pos h

variable (hn : s.params.numDataLines = 4)
include hn

theorem initCheck_of_unresolved (h : resolvePins s.params sck ⟨a, b, c, d⟩ = none) :
    initCheck sck [a, b, c, d] baud pol ph s = .stop (raise .configType .initRequest none none s) := by
  simp [initCheck, fourPins, hn, h]

theorem initCheck_of_value (h : resolvePins s.params sck ⟨a, b, c, d⟩ = some (g, q))
    (hv : baud = 0 ∨ 1 < pol.getD s.params.defaultCpol ∨ 1 < ph.getD s.params.defaultCpha) :
    initCheck sck [a, b, c, d] baud pol ph s = .stop (raise .configValue .initRequest none none s) := by
  simp [initCheck, fourPins, hn, h, hv]

theorem initCheck_passes (h : resolvePins s.params sck ⟨a, b, c, d⟩ = some (g, q)) (hbaud : 0 < baud)
    (hpol : pol.getD s.params.defaultCpol ≤ 1) (hph : ph.getD s.params.defaultCpha ≤ 1) :
    initCheck sck [a, b, c, d] baud pol ph s =
      .ret ⟨g, q, baud, pol.getD s.params.defaultCpol, ph.getD s.params.defaultCpha⟩ s := by
  have hv : ¬ (baud = 0 ∨ 1 < pol.getD s.params.defaultCpol ∨ 1 < ph.getD s.params.defaultCpha) := by omega
  simp [initCheck, fourPins, hn, h, hv]

end

section

variable {s : State} {busId sck baud : Nat} {pins : List Nat} {pol ph : Option Nat}

theorem execInit_of_active (h : s.life = .active) :
    execInit busId sck pins baud pol ph s = .next (setFault .lifecycle s) := by
  rw [execInit, if_pos h, finish_stop]

theorem execInit_of_check_stops {u : State} (hlife : s.life ≠ .active)
    (h : initCheck sck pins baud pol ph (clearErr s) = .stop u) :
    execInit busId sck pins baud pol ph s = .next u := by
  rw [execInit, if_neg hlife, h, andThen_stop, finish_stop]

theorem execInit_of_check_passes {a : InitArgs} (hlife : s.life ≠ .active)
    (h : initCheck sck pins baud pol ph (clearErr s) = .ret a (clearErr s)) :
    execInit busId sck pins baud pol ph s = finish (fun _ => .code .ok) (initBus busId a (clearErr s)) := by
  rw [execInit, if_neg hlife, h, andThen_ret]

end

/-- Raised where no request keeps a position, an error is its record and its code. -/
theorem raise_at_rest {s : State} (hseq : s.seq = .idle) (hheld : s.held = []) (c : Code) (op : OpName)
    (st off : Option Nat) : raise c op st off s = { s with err := some ⟨c, op, st, off⟩, ret := .code c } := by
  rw [raise, ← hseq, ← hheld]

/-! ### The primitives (R120, R129) -/

section

variable {s s₁ s₂ s₃ : State} {st h f : Nat} (busId : Nat) (a : InitArgs)

theorem attachFailed_keeping (st : Nat) (hfree : s.params.freeBusOnAttachFail = false) :
    attachFailed st s = .stop (raise .busIo .deviceAttach (some st) none s) := by
  simp [attachFailed, hfree]

theorem attachFailed_freeing (st : Nat) (hfree : s.params.freeBusOnAttachFail = true) (hbus : s.bus = .ready)
    (hdev : s.dev = .detached) (hdraw : drawBusFree s = (f, s₁)) :
    attachFailed st s = .stop (raise .busIo .deviceAttach (some st) none (clearBuscfg s₁)) := by
  rw [attachFailed, if_pos hfree, busFree_of hbus hdev hdraw, andThen_ret]

theorem initBus_of_not_free (hbus : s.bus ≠ .free) : initBus busId a s = .stop (setFault .lifecycle s) := by
  rw [initBus, busInitialize_of_not_free _ hbus, andThen_stop]

theorem initBus_of_bus_failed (hbus : s.bus = .free) (hinit : drawBusInit s = (st, s₁)) (hst : st ≠ 0) :
    initBus busId a s = .stop (raise .busIo .busInitialize (some st) none s₁) := by
  rw [initBus, busInitialize_of _ hbus hinit, andThen_ret, if_neg hst, if_neg hst]

/-- The state once INIT has made the bus READY, the answers of `u` left. -/
def busMade (a : InitArgs) (s u : State) : State :=
  { writeBuscfg (initBusReq s.params a.sck a.d) s with oracle := u.oracle }

/-- With the bus READY, INIT comes down to what DEVICE_ATTACH answers. -/
theorem initBus_of_bus_made (hbus : s.bus = .free) (hdev : s.dev = .detached) (hinit : drawBusInit s = (0, s₁))
    (hattach : drawAttach s₁ = (st, h, s₂)) :
    initBus busId a s =
      if st = 0 then
        .ret () (writeCfg busId a (some h)
          (writeDevcfg (initDevCfg s.params a.baudrate a.cpol a.cpha) (busMade a s s₂)))
      else attachFailed st (busMade a s s₂) := by
  have hmade : drawAttach (writeBuscfg (initBusReq s.params a.sck a.d) s₁) = (st, h, busMade a s s₂) := by
    rw [drawAttach_congr (u := writeBuscfg _ s₁) hattach rfl rfl, drawBusInit_eq hinit]
    rfl
  have hmadeDev : (writeBuscfg (initBusReq s.params a.sck a.d) s₁).dev = .detached := by
    rw [drawBusInit_eq hinit]
    exact hdev
  rw [initBus, busInitialize_of _ hbus hinit, andThen_ret, if_pos rfl, if_pos rfl,
    deviceAttach_of _ rfl hmadeDev hmade, drawBusInit_eq hinit]
  split
  · rfl
  · rw [andThen_ret, if_neg ‹_›]

/-- INIT draws its two answers as they come, whatever `S.err` was. -/
theorem initBus_clearErr_of_bus_made (hbus : s.bus = .free) (hdev : s.dev = .detached)
    (hinit : drawBusInit s = (0, s₁)) (hattach : drawAttach s₁ = (st, h, s₂)) :
    initBus busId a (clearErr s) =
      if st = 0 then
        .ret () (writeCfg busId a (some h)
          (writeDevcfg (initDevCfg s.params a.baudrate a.cpol a.cpha) (busMade a (clearErr s) s₂)))
      else attachFailed st (busMade a (clearErr s) s₂) :=
  initBus_of_bus_made (s₂ := { clearErr s with oracle := s₂.oracle }) busId a hbus hdev
    (drawBusInit_congr hinit rfl rfl) (drawAttach_congr hattach rfl (by rw [drawBusInit_eq hinit]; rfl))

end

/-! ### The mode INIT attaches with (10_state.md R27) -/

theorem spiMode_eq_append {cpol cpha : Nat} (hpol : cpol ≤ 1) (hpha : cpha ≤ 1) :
    spiMode cpol cpha = BitVec.ofNat 1 cpol ++ BitVec.ofNat 1 cpha := by
  interval_cases cpol <;> interval_cases cpha <;> rfl

theorem idleSck_spiMode {cpol cpha : Nat} (hpol : cpol ≤ 1) (hpha : cpha ≤ 1) :
    idleSck (spiMode cpol cpha) = if cpol = 1 then .high else .low := by
  obtain ⟨-, hbit, -⟩ := spiMode_bits ⟨cpol, by omega⟩ ⟨cpha, by omega⟩
  rw [idleSck, hbit]
  simp only [decide_eq_true_eq]

end Sys2Proof.Machine

open Sys2Proof Sys2Proof.Machine

/-- Settles O25: the checks pass, the bus is made READY, the device attached, and the handle written. -/
theorem initCreatesHandle : Obligations.InitCreatesHandle := by
  intro s s1 s2 busId sck p0 p1 p2 p3 baud h g g0 g1 g2 g3 pol ph hlife hbus hdev hn hg h0 h1 h2 h3 hbaud hpol
    hph hinit hattach
  have hpasses := initCheck_passes (s := clearErr s) hn (resolvePins_of hg h0 h1 h2 h3) hbaud hpol hph
  show execInit busId sck [p0, p1, p2, p3] baud pol ph s = _
  rw [execInit_of_check_passes hlife hpasses, initBus_clearErr_of_bus_made busId _ hbus hdev hinit hattach,
    if_pos rfl, finish_ret, ← spiMode_eq_append hpol hph, ← idleSck_spiMode hpol hph]
  rfl

/-- Settles O26: each check stops INIT where those before it have passed. -/
theorem initConfigurationErrors : Obligations.InitConfigurationErrors := by
  intro s busId sck baud pins pol ph hlife hn hseq hheld raised
  have hraised (c : Code) : raise c .initRequest none none (clearErr s) = raised c :=
    raise_at_rest (s := clearErr s) hseq hheld c .initRequest none none
  refine ⟨fun hcount => ?_, fun hfour hpin => ?_, fun hfour hpins hvalue => ?_⟩
  · rw [← hraised]
    exact execInit_of_check_stops hlife (initCheck_of_count hcount)
  · obtain ⟨a, b, c, d, rfl⟩ := List.length_eq_four.mp hfour
    rw [← hraised]
    exact execInit_of_check_stops hlife (initCheck_of_unresolved hn (resolvePins_eq_none hpin))
  · obtain ⟨a, b, c, d, rfl⟩ := List.length_eq_four.mp hfour
    obtain ⟨g, q, -, -, hresolved⟩ := exists_resolvePins hpins
    rw [← hraised]
    exact execInit_of_check_stops hlife (initCheck_of_value hn hresolved hvalue)

/-- Settles O27: the checks pass, and the primitive that fails ends INIT before the handle is written. -/
theorem initBusErrors : Obligations.InitBusErrors := by
  intro s s1 s2 s3 busId sck baud st h f pins pol ph hlife hn hseq hheld hfour hpins hbaud hpol hph
  obtain ⟨a, b, c, d, rfl⟩ := List.length_eq_four.mp hfour
  obtain ⟨g, q, hg, hq, hresolved⟩ := exists_resolvePins hpins
  have hexec : exec (.init busId sck [a, b, c, d] baud pol ph) s = _ :=
    execInit_of_check_passes hlife (initCheck_passes (s := clearErr s) hn hresolved hbaud hpol hph)
  refine ⟨fun hbus hinit hst => ?_, fun hbus hdev hinit hattach hst hdraw hfree => ?_,
    fun hbus hdev hinit hattach hst hfree => ⟨g, q, hg, hq, ?_⟩, fun hbus => ?_⟩
  · rw [hexec, initBus_of_bus_failed (s := clearErr s) busId _ hbus (drawBusInit_congr hinit rfl rfl) hst,
      finish_stop, raise_at_rest (s := { clearErr s with oracle := s1.oracle }) hseq hheld]
    rfl
  · have hs₂ : s.params = s2.params := by rw [drawAttach_eq hattach, drawBusInit_eq hinit]
    have hfreed (args : InitArgs) := drawBusFree_congr (u := busMade args (clearErr s) s2) hdraw rfl hs₂
    rw [hexec, initBus_clearErr_of_bus_made busId _ hbus hdev hinit hattach, if_neg hst,
      attachFailed_freeing (s := busMade _ (clearErr s) s2) st hfree rfl hdev (hfreed _), finish_stop,
      raise_at_rest (s := clearBuscfg { busMade _ (clearErr s) s2 with oracle := s3.oracle }) hseq hheld, hbus]
    rfl
  · rw [hexec, initBus_clearErr_of_bus_made busId _ hbus hdev hinit hattach, if_neg hst,
      attachFailed_keeping (s := busMade _ (clearErr s) _) st hfree, finish_stop,
      raise_at_rest (s := busMade _ (clearErr s) _) hseq hheld]
    rfl
  · rw [hexec, initBus_of_not_free (s := clearErr s) busId _ hbus, finish_stop]

end

section
/-! SUPPORT. DEINIT and READ_ATTR in ACTIVE (40_bus_manager.md R130, R134). -/

namespace Sys2Proof.Machine

variable {s s₁ s₂ : State}

/-- DEINIT under whatever answers: it detaches, frees and releases. -/
theorem execDeinit_of {h a b : Nat} (hlife : s.life = .active) (hbus : s.bus = .ready) (hdev : s.dev = .attached)
    (hhandle : s.devHandle = some h) (hcfg : s.cfg.isSome = true) (hdetach : drawDetach s = (a, s₁))
    (hfree : drawBusFree s₁ = (b, s₂)) :
    execDeinit s = .next (setRet (.code .ok)
      { clearBuscfg (clearDevcfg (clearErr s)) with life := .released, oracle := s₂.oracle }) := by
  obtain ⟨c, hc⟩ := Option.isSome_iff_exists.mp hcfg
  have hread (u : State) : readField s.cfg u = .ret c u := by rw [hc, readField_some]
  have hdetached : deviceDetach h (clearErr s) = .ret () (clearDevcfg { clearErr s with oracle := s₁.oracle }) :=
    deviceDetach_of hdev hhandle (drawDetach_congr hdetach rfl rfl)
  have hfreed : busFree (clearDevcfg { clearErr s with oracle := s₁.oracle }) =
      .ret () (clearBuscfg { clearDevcfg (clearErr s) with oracle := s₂.oracle }) :=
    busFree_of hbus rfl (drawBusFree_congr hfree rfl (by rw [drawDetach_eq hdetach]; rfl))
  rw [execDeinit, requireActive_of_active hlife, andThen_ret, attachedHandle_of (s := clearErr s) hdev hhandle,
    andThen_ret, hdetached, andThen_ret, clearDevcfg_cfg, clearErr_cfg, hread, andThen_ret, hfreed, andThen_ret,
    finish_ret]
  rfl

theorem execReadAttr_of {c : Cfg} {sel : BitVec 4} {v : Nat} (hlife : s.life = .active) (hcfg : s.cfg = some c)
    (hsel : attrOf c sel = some v) : execReadAttr sel s = .next { s with ret := .value v } := by
  have hread : readField s.cfg s = .ret c s := by rw [hcfg, readField_some]
  rw [execReadAttr, requireActive_of_active hlife, andThen_ret, hread, andThen_ret, hsel]
  rfl

/-! ### Requests outside ACTIVE (R132) -/

/-- A request whose first check is the lifecycle faults outside ACTIVE, whatever it would have done. -/
theorem finish_of_not_active {α : Type} (hlife : s.life ≠ .active) (r : α → Ret) (body : Unit → State → Call α) :
    finish r (andThen (requireActive s) body) = .next (setFault .lifecycle s) := by
  rw [requireActive_of_not hlife, andThen_stop, finish_stop]

end Sys2Proof.Machine

open Sys2Proof Sys2Proof.Machine

/-- Settles O28: the lifecycle is each request's first check, and the mark is a step's. -/
theorem wrongLifecycleFaults : Obligations.WrongLifecycleFaults := by
  refine fun s => ⟨fun hlife => ⟨?_, fun c ps => ?_, fun b => ?_, fun b d => ?_, fun sel => ?_⟩,
    fun hlife _ _ _ _ _ _ => execInit_of_active hlife, ?_⟩
  · exact finish_of_not_active hlife _ _
  · exact finish_of_not_active hlife _ _
  · exact finish_of_not_active hlife _ _
  · exact finish_of_not_active hlife _ _
  · exact finish_of_not_active hlife _ _
  · rw [step, fetch_of_fault (setFault_fault s .lifecycle)]

/-- Settles O29: neither status is looked at. -/
theorem deinitReleasesHandle : Obligations.DeinitReleasesHandle :=
  ⟨fun _ hlife => finish_of_not_active hlife _ _,
    fun _ _ _ _ _ _ hlife hbus hdev hhandle hcfg hdetach hfree =>
      execDeinit_of hlife hbus hdev hhandle hcfg hdetach hfree⟩

/-- Settles O30: the nine selectors that name a value, and those that name none. -/
theorem readAttrReturnsAttribute : Obligations.ReadAttrReturnsAttribute := by
  refine ⟨fun s sel hlife => finish_of_not_active hlife _ _, fun s c hlife hcfg => ?_⟩
  have hread {sel : BitVec 4} {v : Nat} (hsel : attrOf c sel = some v) :
      exec (.readAttr sel) s = .next { s with ret := .value v } := execReadAttr_of hlife hcfg hsel
  exact ⟨hread rfl, hread rfl, hread rfl, hread rfl, hread rfl, hread rfl, hread rfl, hread rfl, hread rfl,
    fun sel hsel => execReadAttr_of_reserved hlife (by simp [hcfg]) hsel⟩

end

section
/-! SUPPORT. What the bus manager leaves unchanged: each primitive whole, and what INIT and DEINIT keep through all
their primitives (40_bus_manager.md R120 to R130). -/

namespace Sys2Proof.Machine

/-! ### An answer takes from its own list -/

theorem drawBusInit_list {s s' : State} {st : Nat} (h : drawBusInit s = (st, s')) :
    ∃ as n, s' = { s with oracle := { s.oracle with busInit := as, draws := n } } := by
  unfold drawBusInit at h
  split at h <;> (obtain ⟨-, rfl⟩ := h; exact ⟨_, _, rfl⟩)

theorem drawAttach_list {s s' : State} {st g : Nat} (h : drawAttach s = (st, g, s')) :
    ∃ as n, s' = { s with oracle := { s.oracle with attach := as, draws := n } } := by
  unfold drawAttach at h
  split at h <;> (obtain ⟨-, -, rfl⟩ := h; exact ⟨_, _, rfl⟩)

theorem drawDetach_list {s s' : State} {st : Nat} (h : drawDetach s = (st, s')) :
    ∃ as n, s' = { s with oracle := { s.oracle with detach := as, draws := n } } := by
  unfold drawDetach at h
  split at h <;> (obtain ⟨-, rfl⟩ := h; exact ⟨_, _, rfl⟩)

theorem drawBusFree_list {s s' : State} {st : Nat} (h : drawBusFree s = (st, s')) :
    ∃ as n, s' = { s with oracle := { s.oracle with busFree := as, draws := n } } := by
  unfold drawBusFree at h
  split at h <;> (obtain ⟨-, rfl⟩ := h; exact ⟨_, _, rfl⟩)

/-! ### The primitives -/

/-- BUS_INITIALIZE changes these fields alone (R121). -/
abbrev BusInitializeFrame (s u : State) : Prop :=
  u = { s with
    bus := u.bus, buscfg := u.buscfg, fault := u.fault, ret := u.ret,
    oracle := { s.oracle with busInit := u.oracle.busInit, draws := u.oracle.draws } }

/-- DEVICE_ATTACH, and its caller storing the handle, change these fields alone (R123). -/
abbrev DeviceAttachFrame (s u : State) : Prop :=
  u = { s with
    dev := u.dev, devcfg := u.devcfg, devHandle := u.devHandle, lines := ⟨u.lines.sck, s.lines.d⟩,
    fault := u.fault, ret := u.ret,
    oracle := { s.oracle with attach := u.oracle.attach, draws := u.oracle.draws } }

/-- DEVICE_DETACH changes these fields alone (R125). -/
abbrev DeviceDetachFrame (s u : State) : Prop :=
  u = { s with
    dev := u.dev, devcfg := u.devcfg, devHandle := u.devHandle, fault := u.fault, ret := u.ret,
    oracle := { s.oracle with detach := u.oracle.detach, draws := u.oracle.draws } }

/-- BUS_FREE changes these fields alone (R127). -/
abbrev BusFreeFrame (s u : State) : Prop :=
  u = { s with
    bus := u.bus, buscfg := u.buscfg, lines := u.lines, fault := u.fault, ret := u.ret,
    oracle := { s.oracle with busFree := u.oracle.busFree, draws := u.oracle.draws } }

/-- READ_ATTR changes the marks and its result alone (R134). -/
abbrev ReadAttrFrame (s u : State) : Prop :=
  u = { s with fault := u.fault, refused := u.refused, ret := u.ret }

/-- `c` ends in a state that is to `s` as `R` says, whether it returns or not. -/
abbrev Stays {α : Type} (R : State → State → Prop) (s : State) (c : Call α) : Prop := Ends (R s) (fun _ u => R s u) c

/-- The request whose body stays within `R` does so, if its result may be written. -/
theorem Stays.finish {α : Type} {R : State → State → Prop} {s t : State} {c : Call α} {r : α → Ret}
    (h : Stays R s c) (hret : ∀ r u, R s u → R s (setRet r u)) (ht : finish r c = .next t) : R s t :=
  finish_keeps h (fun _ u hu => hret _ u hu) ht

theorem busInitialize_stays (bc : BusReq) (s : State) : Stays BusInitializeFrame s (busInitialize bc s) := by
  refine (busInitialize_ends bc s).imp ?_ ?_
  · rintro u ⟨-, rfl⟩
    rfl
  · rintro st u ⟨-, v, hdraw, rfl⟩
    obtain ⟨as, n, rfl⟩ := drawBusInit_list hdraw
    split
    · rfl
    · rfl

theorem deviceAttach_stays (dc : DevCfg) (s : State) : Stays DeviceAttachFrame s (deviceAttach dc s) := by
  refine (deviceAttach_ends dc s).imp ?_ ?_
  · rintro u ⟨-, rfl⟩
    rfl
  · rintro r u ⟨-, -, st, g, v, hdraw, hu⟩
    obtain ⟨as, n, rfl⟩ := drawAttach_list hdraw
    obtain ⟨-, -, rfl⟩ | ⟨-, -, rfl⟩ := hu
    · rfl
    · rfl

theorem deviceDetach_stays (g : Nat) (s : State) : Stays DeviceDetachFrame s (deviceDetach g s) := by
  refine (deviceDetach_ends g s).imp ?_ ?_
  · rintro u (⟨rfl, -⟩ | ⟨-, -, rfl⟩)
    · rfl
    · rfl
  · rintro - u ⟨-, -, st, v, hdraw, rfl⟩
    obtain ⟨as, n, rfl⟩ := drawDetach_list hdraw
    rfl

theorem busFree_stays (s : State) : Stays BusFreeFrame s (busFree s) := by
  refine (busFree_ends s).imp ?_ ?_
  · rintro u ⟨-, rfl⟩
    rfl
  · rintro - u ⟨-, -, st, v, hdraw, rfl⟩
    obtain ⟨as, n, rfl⟩ := drawBusFree_list hdraw
    rfl

/-- Storing the handle is within DEVICE_ATTACH's frame. -/
theorem DeviceAttachFrame.storeHandle {s u : State} (g : Option Nat) (h : DeviceAttachFrame s u) :
    DeviceAttachFrame s (storeHandle g u) := by
  cases g with
  | none => exact h
  | some g => rw [h]; rfl

/-! ### INIT -/

/-- What INIT keeps: all but the fields R120 lists, the marks, its position, and the lists of the answers it
draws. -/
structure InitKept (s u : State) : Prop where
  desc : u.desc = s.desc
  queue : u.queue = s.queue
  log : u.log = s.log
  params : u.params = s.params
  mem : u.mem = s.mem
  wire : u.wire = s.wire
  inbox : u.inbox = s.inbox
  others : u.others = s.others
  tx : u.oracle.tx = s.oracle.tx
  detach : u.oracle.detach = s.oracle.detach

theorem InitKept.refl (s : State) : InitKept s s := ⟨rfl, rfl, rfl, rfl, rfl, rfl, rfl, rfl, rfl, rfl⟩

theorem InitKept.eq {s u : State} (h : InitKept s u) :
    u = { s with
      life := u.life, bus := u.bus, dev := u.dev, cfg := u.cfg, devHandle := u.devHandle,
      devcfg := u.devcfg, buscfg := u.buscfg, lines := u.lines, seq := u.seq, held := u.held,
      err := u.err, fault := u.fault, refused := u.refused, ret := u.ret,
      oracle := { u.oracle with tx := s.oracle.tx, detach := s.oracle.detach } } := by
  obtain ⟨hdesc, hqueue, hlog, hparams, hmem, hwire, hinbox, hothers, htx, hdetach⟩ := h
  rw [← hdesc, ← hqueue, ← hlog, ← hparams, ← hmem, ← hwire, ← hinbox, ← hothers, ← htx, ← hdetach]

theorem InitKept.busInitialize {s u v : State} (h : InitKept s u) (hv : BusInitializeFrame u v) : InitKept s v := by
  rw [hv]
  exact { h with }

theorem InitKept.deviceAttach {s u v : State} (h : InitKept s u) (hv : DeviceAttachFrame u v) : InitKept s v := by
  rw [hv]
  exact { h with }

theorem InitKept.busFree {s u v : State} (h : InitKept s u) (hv : BusFreeFrame u v) : InitKept s v := by
  rw [hv]
  exact { h with }

theorem InitKept.writeCfg {s u : State} (busId : Nat) (a : InitArgs) (g : Option Nat) (h : InitKept s u) :
    InitKept s (writeCfg busId a g u) := by
  cases g with
  | none => exact { h with }
  | some g => exact { h with }

theorem InitKept.attachFailed {s u : State} (st : Nat) (h : InitKept s u) :
    Ends (InitKept s) (fun _ v => InitKept s v) (attachFailed st u) := by
  refine Ends.andThen (Q := fun _ v => InitKept s v) ?_ fun _ v hv => { hv with }
  split
  · exact (busFree_stays u).imp (fun _ hv => h.busFree hv) fun _ _ hv => h.busFree hv
  · exact h

theorem InitKept.initBus {s u : State} (busId : Nat) (a : InitArgs) (h : InitKept s u) :
    Ends (InitKept s) (fun _ v => InitKept s v) (initBus busId a u) := by
  refine (busInitialize_stays _ u).andThen' (fun _ hv => h.busInitialize hv) fun st v hv => ?_
  have hkept := h.busInitialize hv
  split
  · refine (deviceAttach_stays _ v).andThen' (fun _ hw => hkept.deviceAttach hw) fun r w hw => ?_
    split
    · exact (hkept.deviceAttach hw).writeCfg busId a r.2
    · exact (hkept.deviceAttach hw).attachFailed r.1
  · exact { hkept with }

theorem execInit_kept {s t : State} {busId sck baud : Nat} {pins : List Nat} {pol ph : Option Nat}
    (h : execInit busId sck pins baud pol ph s = .next t) : InitKept s t := by
  refine Stays.finish (R := InitKept) ?_ (fun _ _ hu => { hu with }) h
  have hcleared : InitKept s (clearErr s) := { InitKept.refl s with }
  split
  · exact { InitKept.refl s with }
  · refine (initCheck_ends sck pins baud pol ph (clearErr s)).andThen' ?_ ?_
    · rintro u (⟨c, -, rfl⟩ | rfl)
      · exact { hcleared with }
      · exact { hcleared with }
    · rintro a u ⟨rfl, -⟩
      exact hcleared.initBus busId a

/-! ### DEINIT -/

/-- What DEINIT keeps: all but the fields R130 lists, the fault mark, and the lists of the answers it draws. -/
structure DeinitKept (s u : State) : Prop where
  cfg : u.cfg = s.cfg
  seq : u.seq = s.seq
  desc : u.desc = s.desc
  queue : u.queue = s.queue
  log : u.log = s.log
  refused : u.refused = s.refused
  params : u.params = s.params
  mem : u.mem = s.mem
  held : u.held = s.held
  wire : u.wire = s.wire
  inbox : u.inbox = s.inbox
  others : u.others = s.others
  tx : u.oracle.tx = s.oracle.tx
  busInit : u.oracle.busInit = s.oracle.busInit
  attach : u.oracle.attach = s.oracle.attach

theorem DeinitKept.refl (s : State) : DeinitKept s s :=
  ⟨rfl, rfl, rfl, rfl, rfl, rfl, rfl, rfl, rfl, rfl, rfl, rfl, rfl, rfl, rfl⟩

theorem DeinitKept.eq {s u : State} (h : DeinitKept s u) :
    u = { s with
      life := u.life, bus := u.bus, dev := u.dev, devHandle := u.devHandle, devcfg := u.devcfg,
      buscfg := u.buscfg, lines := u.lines, err := u.err, fault := u.fault, ret := u.ret,
      oracle := { u.oracle with
        tx := s.oracle.tx, busInit := s.oracle.busInit, attach := s.oracle.attach } } := by
  obtain ⟨hcfg, hseq, hdesc, hqueue, hlog, hrefused, hparams, hmem, hheld, hwire, hinbox, hothers, htx, hinit,
    hattach⟩ := h
  rw [← hcfg, ← hseq, ← hdesc, ← hqueue, ← hlog, ← hrefused, ← hparams, ← hmem, ← hheld, ← hwire, ← hinbox,
    ← hothers, ← htx, ← hinit, ← hattach]

theorem DeinitKept.setFault {s u : State} (f : Fault) (h : DeinitKept s u) : DeinitKept s (setFault f u) :=
  { h with }

theorem DeinitKept.deviceDetach {s u v : State} (h : DeinitKept s u) (hv : DeviceDetachFrame u v) :
    DeinitKept s v := by
  rw [hv]
  exact { h with }

theorem DeinitKept.busFree {s u v : State} (h : DeinitKept s u) (hv : BusFreeFrame u v) : DeinitKept s v := by
  rw [hv]
  exact { h with }

theorem execDeinit_kept {s t : State} (h : execDeinit s = .next t) : DeinitKept s t := by
  have hcleared : DeinitKept s (clearErr s) := { DeinitKept.refl s with }
  refine Stays.finish (R := DeinitKept) ?_ (fun _ _ hu => { hu with }) h
  refine (requireActive_ends s).andThen' ?_ ?_
  · rintro u ⟨-, rfl⟩
    exact (DeinitKept.refl s).setFault _
  rintro - s ⟨-, rfl⟩
  refine Ends.andThen (attachedHandle_keeps hcleared.setFault hcleared) fun g u hu => ?_
  refine (deviceDetach_stays g u).andThen' (fun _ hv => hu.deviceDetach hv) fun _ v hv => ?_
  have hdetached := hu.deviceDetach hv
  refine Ends.andThen (readField_keeps v.cfg hdetached.setFault hdetached) fun _ w hw => ?_
  exact (busFree_stays w).andThen' (fun _ hx => hw.busFree hx) fun _ x hx => { hw.busFree hx with }

/-! ### READ_ATTR -/

theorem execReadAttr_frame {s t : State} {sel : BitVec 4} (h : execReadAttr sel s = .next t) :
    ReadAttrFrame s t := by
  refine finish_keeps (P := (· = s)) ?_ (fun _ u hu => by rw [hu]; rfl) h
  refine (requireActive_ends s).andThen' ?_ ?_
  · rintro u ⟨-, rfl⟩
    rfl
  rintro - u ⟨-, rfl⟩
  refine (readField_ends u.cfg u).andThen' ?_ ?_
  · rintro v ⟨-, rfl⟩
    rfl
  rintro c v ⟨-, rfl⟩
  split
  · rfl
  · rfl

end Sys2Proof.Machine

open Sys2Proof Sys2Proof.Machine

/-- Settles O44: INIT and DEINIT keep what their primitives keep, the primitives and READ_ATTR are read off what they
can do. -/
theorem lifecycleFrame : Obligations.LifecycleFrame := by
  refine ⟨fun s t id sck baud pins pol ph h => (execInit_kept h).eq, fun s t h => (execDeinit_kept h).eq,
    fun s t id bc h => ?_, fun s t id dc h => ?_, fun s t g h => ?_, fun s t id h => ?_,
    fun s t sel h => execReadAttr_frame h⟩
  · exact (busInitialize_stays bc s).finish (fun _ u hu => by rw [hu]; rfl) h
  · have hstored : Stays DeviceAttachFrame s (andThen (deviceAttach dc s) fun r u => .ret r (storeHandle r.2 u)) :=
      (deviceAttach_stays dc s).andThen fun r u hu => hu.storeHandle r.2
    exact hstored.finish (fun _ u hu => by rw [hu]; rfl) h
  · exact (deviceDetach_stays g s).finish (fun _ u hu => by rw [hu]; rfl) h
  · exact (busFree_stays s).finish (fun _ u hu => by rw [hu]; rfl) h

end

section
/-! SUPPORT. The wire of a host-driven machine (41_line_sequencer.md R169): it is what the log says, but for the beats
of a frame that hangs. -/

namespace Sys2Proof.Machine

/-- The beats that the entries of the log say were driven, in their order. -/
def loggedBeats (s : State) : List Beat := s.log.flatMap fun e => (hostBeats s.params e.t).take e.k

/-- No frame is in flight, and the wire has carried what the log says. -/
def WireAgrees (s : State) : Prop := s.desc = none ∧ s.wire = loggedBeats s

theorem WireAgrees.wireInv {s : State} (h : WireAgrees s) : WireInv s := by
  obtain ⟨hdesc, hwire⟩ := h
  exact ⟨0, by rw [hdesc, List.append_nil]; exact hwire⟩

theorem WireInv.agrees {s : State} (h : WireInv s) (hdesc : s.desc = none) : WireAgrees s := by
  obtain ⟨j, hwire⟩ := h
  rw [hdesc, List.append_nil] at hwire
  exact ⟨hdesc, hwire⟩

theorem WireInv.passed {s u : State} (hu : TimePassed s u) (h : WireInv s) : WireInv u := by
  rw [hu.eq]
  exact h

theorem WireAgrees.passed {s u : State} (hu : TimePassed s u) (h : WireAgrees s) : WireAgrees u := by
  rw [hu.eq]
  exact h

/-- In a machine that its host alone drives, a frame's beats are those under the configuration INIT wrote: the
device is the one INIT attached. -/
theorem LifecycleInv.serialize_eq_hostBeats {s : State} {t : Desc} {dc : DevCfg} (h : LifecycleInv s)
    (hsends : TransmitSends t dc s) : serialize s.params.multiline dc t = hostBeats s.params t := by
  obtain ⟨hdev, -, hdc, -⟩ := hsends
  have hactive : s.life = .active := h.active.mpr ⟨h.attach hdev, hdev⟩
  obtain ⟨c, hc⟩ : ∃ c, s.cfg = some c :=
    Option.ne_none_iff_exists'.mp fun hn => by simp [h.cfg.mpr hn] at hactive
  obtain ⟨-, hinit, -⟩ := h.config c hactive hc
  rw [Option.some.inj (hdc.symm.trans hinit)]
  rfl

theorem WireAgrees.sent {t : Desc} {st : Nat} {s u : State} (hs : LifecycleInv s) (hu : FrameSent t st s u)
    (h : WireAgrees s) : WireAgrees u := by
  obtain ⟨dc, hsends, k, o, v, -, hv, rfl⟩ := hu
  obtain ⟨-, hwire⟩ := h.passed hv
  have hbeats : serialize v.params.multiline dc t = hostBeats v.params t := by
    rw [hv.eq]
    exact hs.serialize_eq_hostBeats hsends
  refine ⟨rfl, ?_⟩
  simp [afterFrame, loggedBeats, hbeats, hwire]

theorem WireAgrees.hangs {t : Desc} {s u : State} (hs : LifecycleInv s) (hu : FrameHangs t s u)
    (h : WireAgrees s) : WireInv u := by
  obtain ⟨dc, hsends, j, ph, b, l, o, v, -, hv, rfl, -⟩ := hu
  obtain ⟨-, hwire⟩ := h.passed hv
  have hbeats : serialize v.params.multiline dc t = hostBeats v.params t := by
    rw [hv.eq]
    exact hs.serialize_eq_hostBeats hsends
  refine ⟨j, ?_⟩
  simp [hungFrame, loggedBeats, hbeats, hwire]

/-- A request of the framer keeps the wire as the log says, frame by frame, until one hangs. -/
theorem framerKeeps_wire : FramerKeeps (fun s => LifecycleInv s ∧ WireAgrees s) WireInv where
  fault _ _ _ _ h := h.2.wireInv
  unwritten _ _ h := h.2.wireInv
  refused _ _ _ h := h.2.wireInv
  illFormed _ _ _ _ _ _ h := h.2.wireInv
  raise _ _ _ _ _ _ h := h.2.wireInv
  clearErr s h := ⟨framerKeeps_lifecycleInv.clearErr s h.1, h.2⟩
  setPos op pos s h := ⟨framerKeeps_lifecycleInv.setPos op pos s h.1, h.2⟩
  setHeld bs s h := ⟨framerKeeps_lifecycleInv.setHeld bs s h.1, h.2⟩
  setReqIdle s h := ⟨framerKeeps_lifecycleInv.setReqIdle s h.1, h.2⟩
  sent _ _ _ _ hu h := ⟨h.1.sent hu, h.2.sent h.1 hu⟩
  passed _ _ hu h := ⟨h.1.passed hu, h.2.passed hu⟩
  hangs _ _ _ hu h := h.2.hangs h.1 hu
  cut _ _ u hu h := show WireInv u from h.2.hangs h.1 hu

/-- The bus manager touches neither the log nor the wire. -/
theorem busKeeps_wire : BusKeeps WireInv WireInv where
  fault _ _ _ h := h
  refused _ _ h := h
  raise _ _ _ _ _ _ h := h
  clearErr _ h := h
  oracle _ _ h := h
  writeBuscfg _ _ h := h
  writeDevcfg _ _ h := h
  storeHandle g _ h := by cases g <;> exact h
  clearDevcfg _ h := h
  clearBuscfg _ h := h
  life _ _ _ h := h

theorem exec_wireInv {i : Instr} {s t : State} (hlife : LifecycleInv s) (hwire : WireInv s) (hdesc : s.desc = none)
    (h : exec i s = .next t) : WireInv t := by
  by_cases hsends : Instr.Sends i
  · exact exec_keeps_of_sends framerKeeps_wire (fun _ _ hu => hu.2.wireInv) ⟨hlife, hwire.agrees hdesc⟩
      (fun _ _ _ _ _ _ _ hu => ⟨{ hu.1 with }, hu.2⟩) (fun _ _ _ => hwire) hsends h
  · exact exec_keeps_of_not_sends busKeeps_wire (fun _ _ hu => hu) hwire hsends h

end Sys2Proof.Machine

open Sys2Proof.Machine

/-- Settles O55: a request starts with no frame in flight, each frame it sends puts on the wire what its entry says,
and only a frame that hangs leaves more there. -/
theorem stepKeepsWireInv : Obligations.StepKeepsWireInv := by
  intro s t _ hlife hinv hwire hstep
  refine step_keeps hstep hwire (fun _ _ hu => hu) (fun _ _ _ _ => hwire) (fun _ hu => hwire.passed hu) ?_
  intro p i es hsafe hidle _ _ hexec
  obtain ⟨-, hqueue⟩ := inProgress_eq_false hidle
  obtain ⟨-, hdesc, -, -⟩ := hinv.rest hsafe hqueue
  exact exec_wireInv (s := { s with inbox := es }) { hlife with } hwire hdesc hexec

end

section
/-! SUPPORT. The beats of the framer's frames (41_line_sequencer.md R152, R157, R162, R167; 42_framer.md R192, R196,
R198, R199): each frame is well-formed, and its phases' beats are counted, or written out. -/

namespace Sys2Proof.Machine

variable {m : Multiline} {dc : DevCfg} {t : Desc}

/-! ### The phases of a frame -/

theorem filter_tag_phasePart (p q : Phase) :
    ((phasePart m dc t q).filter fun b => b.tag = p) = if q = p then phasePart m dc t q else [] := by
  split
  · rw [List.filter_eq_self]
    exact fun b hb => by simpa [phasePart_tag hb]
  · rw [List.filter_eq_nil_iff]
    exact fun b hb => by simpa [phasePart_tag hb]

/-- The beats of a frame that belong to a phase are that phase's part of it (R153). -/
theorem filter_tag_serialize (p : Phase) :
    ((serialize m dc t).filter fun b => b.tag = p) = phasePart m dc t p := by
  simp only [serialize_eq, List.filter_append, filter_tag_phasePart]
  cases p <;> simp

/-- A frame has its phases' beats. -/
theorem serialize_length (h : t.wf m dc = true) :
    (serialize m dc t).length = lenCmd dc t / (widthCmd m dc t).lines + lenAddr dc t / (widthAddr m dc t).lines +
      lenDummy dc t + lenData t / (widthData dc t).lines := by
  simp only [serialize_eq, List.length_append, phasePart_length h, phaseLen, phaseStep, Nat.div_one]

@[simp] theorem phaseBeats_nil (w : LineWidth) (tag : Phase) : phaseBeats w tag [] = [] := by
  cases w <;> rfl

theorem phaseBeats_quad (tag : Phase) (bits : List Bool) : phaseBeats .quad tag bits = quadBeats tag bits := rfl

/-! ### The fields of the framer's frames -/

section
variable (p : Params) (c : BitVec 8) (tx : List Byte)

@[simp] theorem cmdFrame_flags :
    (cmdFrame p c tx).qio = false ∧ (cmdFrame p c tx).addrQuad = true ∧ (cmdFrame p c tx).cmdQuad = true ∧
    (cmdFrame p c tx).varCmd = false ∧ (cmdFrame p c tx).varAddr = false ∧ (cmdFrame p c tx).varDummy = false := by
  simp [Desc.qio, Desc.addrQuad, Desc.cmdQuad, Desc.varCmd, Desc.varAddr, Desc.varDummy, cmdFrame]

@[simp] theorem hsFrame_flags :
    (hsFrame p).qio = true ∧ (hsFrame p).addrQuad = false ∧ (hsFrame p).cmdQuad = false ∧
    (hsFrame p).varCmd = false ∧ (hsFrame p).varAddr = false ∧ (hsFrame p).varDummy = false := by
  simp [Desc.qio, Desc.addrQuad, Desc.cmdQuad, Desc.varCmd, Desc.varAddr, Desc.varDummy, hsFrame]

@[simp] theorem dataFrame_flags :
    (dataFrame tx).qio = true ∧ (dataFrame tx).addrQuad = false ∧ (dataFrame tx).cmdQuad = false ∧
    (dataFrame tx).varCmd = true ∧ (dataFrame tx).varAddr = true ∧ (dataFrame tx).varDummy = true := by
  simp [Desc.qio, Desc.addrQuad, Desc.cmdQuad, Desc.varCmd, Desc.varAddr, Desc.varDummy, dataFrame]

@[simp] theorem lenData_cmdFrame : lenData (cmdFrame p c tx) = 8 * tx.length := rfl
@[simp] theorem lenData_hsFrame : lenData (hsFrame p) = 0 := rfl
@[simp] theorem tx_dataFrame : (dataFrame tx).tx = tx := rfl
@[simp] theorem lenData_dataFrame : lenData (dataFrame tx) = 8 * tx.length := rfl

/-- CMD_FRAME and HS_FRAME have the device's header, DATA_FRAME has none (R192, R196, R198). -/
@[simp] theorem header_cmdFrame :
    lenCmd dc (cmdFrame p c tx) = dc.commandBits ∧ lenAddr dc (cmdFrame p c tx) = dc.addressBits ∧
    lenDummy dc (cmdFrame p c tx) = dc.dummyBits := by
  simp [lenCmd, lenAddr, lenDummy]

@[simp] theorem header_hsFrame :
    lenCmd dc (hsFrame p) = dc.commandBits ∧ lenAddr dc (hsFrame p) = dc.addressBits ∧
    lenDummy dc (hsFrame p) = dc.dummyBits := by
  simp [lenCmd, lenAddr, lenDummy]

@[simp] theorem header_dataFrame :
    lenCmd dc (dataFrame tx) = 0 ∧ lenAddr dc (dataFrame tx) = 0 ∧ lenDummy dc (dataFrame tx) = 0 := by
  simp only [lenCmd, lenAddr, lenDummy, dataFrame_flags, if_true]
  exact ⟨rfl, rfl, rfl⟩

/-! ### The checks of the framer's frames (R199) -/

/-- Eight and 24 header bits are whole beats at every width. -/
theorem headerBits_mod_lines (h : HeaderBits dc) (w w' : LineWidth) :
    dc.commandBits.val % w.lines = 0 ∧ dc.addressBits.val % w'.lines = 0 := by
  obtain ⟨hcmd, haddr⟩ := h
  rw [hcmd, haddr]
  constructor
  · cases w <;> rfl
  · cases w' <;> rfl

theorem eight_mul_mod_lines (n : Nat) (w : LineWidth) : 8 * n % w.lines = 0 := by
  cases w with
  | single => exact Nat.mod_one _
  | quad => show 8 * n % 4 = 0; omega

/-- A CMD_FRAME passes the checks (R199). -/
theorem wf_cmdFrame (h : HeaderBits dc) : (cmdFrame p c tx).wf m dc = true := by
  obtain ⟨hcmd, haddr⟩ := headerBits_mod_lines h (widthCmd m dc (cmdFrame p c tx)) (widthAddr m dc (cmdFrame p c tx))
  have hrange : (cmdFrame p c tx).addr < 2 ^ 24 := by
    have : c.toNat <<< 8 = c.toNat * 2 ^ 8 := Nat.shiftLeft_eq _ _
    have := c.isLt
    simp only [cmdFrame]
    omega
  simp only [Desc.wf, Desc.wf2, Desc.wf5, Desc.wf6, cmdFrame_flags, header_cmdFrame, lenData_cmdFrame, hcmd, haddr,
    eight_mul_mod_lines, decide_eq_true hrange, decide_eq_true (show (cmdFrame p c tx).cmd < 2 ^ 8 from p.wcCmd.isLt)]
  simp [Desc.wf1, Desc.wf3, cmdFrame]

/-- An HS_FRAME passes the checks (R199). -/
theorem wf_hsFrame (h : HeaderBits dc) : (hsFrame p).wf m dc = true := by
  obtain ⟨hcmd, haddr⟩ := headerBits_mod_lines h (widthCmd m dc (hsFrame p)) (widthAddr m dc (hsFrame p))
  simp only [Desc.wf, Desc.wf2, Desc.wf5, Desc.wf6, hsFrame_flags, header_hsFrame, lenData_hsFrame, hcmd, haddr,
    Nat.zero_mod, decide_eq_true (show (hsFrame p).cmd < 2 ^ 8 from p.hsCmd.isLt),
    decide_eq_true (show (hsFrame p).addr < 2 ^ 24 from p.hsAddr.isLt)]
  simp [Desc.wf1, Desc.wf3, hsFrame]

/-- A DATA_FRAME passes the checks (R199). -/
theorem wf_dataFrame : (dataFrame tx).wf m dc = true := by
  simp only [Desc.wf, Desc.wf5, header_dataFrame, lenData_dataFrame, eight_mul_mod_lines, Nat.zero_mod]
  simp [Desc.wf1, Desc.wf2, Desc.wf3, Desc.wf6, dataFrame]

end

/-! ### A payload on four lines (R157, R162) -/

/-- A byte as its high and then its low nibble. -/
def nibbleBeats (tag : Phase) (b : Byte) : List Beat :=
  [nibbleBeat tag (b.extractLsb' 4 4), nibbleBeat tag (b.extractLsb' 0 4)]

theorem bitsMsb_byte (b : Byte) : bitsMsb 8 b.toNat = [7, 6, 5, 4, 3, 2, 1, 0].map b.getLsbD := by
  simp only [bitsMsb, BitVec.testBit_toNat, List.map_cons, List.map_nil]

theorem quadBeats_byte (tag : Phase) (b : Byte) (bits : List Bool) :
    quadBeats tag (bitsMsb 8 b.toNat ++ bits) = nibbleBeats tag b ++ quadBeats tag bits := by
  rw [bitsMsb_byte]
  simp [quadBeats, nibbleBeats, nibbleBeat, quadBeat]

theorem quadBeats_payloadBits (tag : Phase) (tx : List Byte) :
    quadBeats tag (payloadBits tx) = tx.flatMap (nibbleBeats tag) := by
  induction tx with
  | nil => rfl
  | cons b tx ih => rw [payloadBits_cons, quadBeats_byte, ih, List.flatMap_cons]

end Sys2Proof.Machine

open Sys2Proof Sys2Proof.Machine

/-- Settles O9: a frame's beats with a phase's tag are that phase's part of it. -/
theorem phaseBeatCounts : Obligations.PhaseBeatCounts := by
  intro m dc t hwf ph
  obtain ⟨-, hdvd⟩ := wf_lengths hwf
  exact ⟨hdvd ph, by rw [filter_tag_serialize, phasePart_length hwf]⟩

/-- Settles O10: each frame is well-formed, so its beats are its phases' lengths over their widths. -/
theorem frameBeatCounts : Obligations.FrameBeatCounts := by
  intro m dc p c tx hbits hdummy hwidth
  have hcmd : dc.commandBits.val = 8 := by rw [hbits.1]; rfl
  have haddr : dc.addressBits.val = 24 := by rw [hbits.2]; rfl
  refine ⟨?_, ?_, ?_, ?_⟩
  · rw [serialize_length (wf_cmdFrame p c tx hbits)]
    simp [widthCmd, widthAddr, widthHeader, widthData, hcmd, haddr, hdummy, hwidth, LineWidth.lines]
  · rw [serialize_length (wf_cmdFrame p c tx hbits)]
    simp [widthCmd, widthAddr, widthHeader, widthData, hcmd, haddr, hdummy, hwidth, LineWidth.lines]
  · rw [serialize_length (wf_hsFrame p hbits)]
    simp [widthCmd, widthAddr, widthHeader, hcmd, haddr, hdummy, LineWidth.lines]
  · rw [serialize_length (wf_dataFrame tx)]
    simp only [widthData, dataFrame_flags, header_dataFrame, lenData_dataFrame, if_true, LineWidth.lines, Nat.zero_div]
    omega

/-- Settles O11: a DATA_FRAME has no header and no dummy beats, and its payload goes four bits a beat. -/
theorem dataFrameBeats : Obligations.DataFrameBeats := by
  intro m dc tx
  calc serialize m dc (dataFrame tx) = quadBeats .data (payloadBits tx) := by
        simp [serialize, widthData, bitsMsb, phaseBeats_quad]
    _ = tx.flatMap (nibbleBeats .data) := quadBeats_payloadBits .data tx

end

section
/-! SUPPORT. The transmits (41_line_sequencer.md R150, R151, R159, R173): where the frame comes to the lines, where it
does not, and what each of them leaves unchanged. -/

namespace Sys2Proof.Machine

variable {s u : State} {t : Desc} {dc : DevCfg} {bc : BusCfg} {h : Nat}

/-! ### Past the checks -/

/-- A well-formed descriptor that the bus takes goes to the lines. -/
theorem checkedSend_of_fits (hatt : Attached s h dc bc) (hwf : t.wf s.params.multiline dc = true)
    (hfits : t.tx.length ≤ bc.maxTransferSize) : checkedSend t s = sendFrame dc t s := by
  obtain ⟨-, -, hdc, hbc⟩ := hatt
  simp [checkedSend, hdc, hbc, hwf, Nat.not_lt.mpr hfits]

/-- A well-formed descriptor that is too long for the bus is answered ST_TOO_LONG (R151). -/
theorem checkedSend_of_long (hatt : Attached s h dc bc) (hq : Undisturbed s)
    (hwf : t.wf s.params.multiline dc = true) (hlong : bc.maxTransferSize < t.tx.length) :
    checkedSend t s = .ret s.params.stTooLong s := by
  obtain ⟨-, -, hdc, hbc⟩ := hatt
  simp [checkedSend, hdc, hbc, hwf, hlong, passPoint_quiet hq]

theorem pollingTransmit_of_not_attached (hdev : s.dev ≠ .attached) (t : Desc) :
    pollingTransmit h t s = .stop (setFault .lifecycle s) := by
  rw [pollingTransmit, attachedHandle, if_neg hdev, andThen_stop]

theorem pollingTransmit_of_other_handle {h' : Nat} (hdev : s.dev = .attached) (hhandle : s.devHandle = some h')
    (hne : h ≠ h') (t : Desc) : pollingTransmit h t s = .stop (setFault .lifecycle s) := by
  rw [pollingTransmit, attachedHandle_of hdev hhandle, andThen_ret, if_neg hne]

/-- The instructions that hand a frame to the controller, and the frame of each. -/
theorem frame?_eq_some {p : Params} {i : Instr} (hi : Instr.frame? p i = some t) :
    (∃ h, i = .pollingTransmit h t) ∨ (∃ c tx, i = .cmdFrame c tx ∧ t = cmdFrame p c tx) ∨
      (i = .hsFrame ∧ t = hsFrame p) ∨ ∃ tx, i = .dataFrame tx ∧ t = dataFrame tx := by
  cases i with
  | pollingTransmit h d => exact .inl ⟨h, by rw [Option.some.inj hi]⟩
  | cmdFrame c tx => exact .inr (.inl ⟨c, tx, rfl, (Option.some.inj hi).symm⟩)
  | hsFrame => exact .inr (.inr (.inl ⟨rfl, (Option.some.inj hi).symm⟩))
  | dataFrame tx => exact .inr (.inr (.inr ⟨tx, rfl, (Option.some.inj hi).symm⟩))
  | init _ _ _ _ _ _ => cases hi
  | deinit => cases hi
  | writeCmd _ _ => cases hi
  | writeData _ => cases hi
  | writeDataRotate _ _ => cases hi
  | readAttr _ => cases hi
  | busInitialize _ _ => cases hi
  | deviceAttach _ _ => cases hi
  | deviceDetach _ => cases hi
  | busFree _ => cases hi

/-- Each transmit to the attached device is the checks and the frame. -/
theorem exec_of_frame {i : Instr} (hatt : Attached s h dc bc) (hi : Instr.frame? s.params i = some t)
    (hh : ∀ h' d, i = .pollingTransmit h' d → h' = h) : exec i s = finish .status (checkedSend t s) := by
  obtain ⟨hdev, hhandle, -, -⟩ := hatt
  rcases frame?_eq_some hi with ⟨h', rfl⟩ | ⟨c, tx, rfl, rfl⟩ | ⟨rfl, rfl⟩ | ⟨tx, rfl, rfl⟩
  · obtain rfl := hh h' t rfl
    exact congrArg (finish .status) (pollingTransmit_of hdev hhandle t)
  · exact congrArg (finish .status) (transmit_of hdev hhandle _)
  · exact congrArg (finish .status) (transmit_of hdev hhandle _)
  · exact congrArg (finish .status) (transmit_of hdev hhandle _)

/-! ### A request that hangs (R159; log entry 7) -/

/-- While a request hangs and no other thread acts, the machine steps to itself. -/
theorem step_of_inProgress (hfault : s.fault = none) (hrefused : s.refused = none) (hparams : paramsOk s.params = true)
    (hbusy : inProgress s = true) (hothers : s.others = []) : step s = .next s := by
  have hfetch : fetch s = .pass s := by
    simp [fetch, hfault, hrefused, hparams, hbusy, fetchBusy, passPoints_none hothers]
  rw [step, hfetch]

theorem inProgress_hungFrame (n : Nat) (ph : Option Phase) (b : Nat) (l : Lines) (o : Oracle) :
    inProgress (hungFrame dc t n ph b l o s) = true := by
  simp [inProgress, hungFrame]

/-! ### What the transmits leave unchanged -/

/-- A transmit changes these fields alone (R150). -/
abbrev TransmitFrame (s u : State) : Prop :=
  u = { s with
    seq := ⟨s.seq.req, u.seq.phase, u.seq.bit⟩, desc := u.desc, lines := u.lines, queue := u.queue,
    log := u.log, fault := u.fault, refused := u.refused, ret := u.ret, wire := u.wire, mem := u.mem,
    oracle := { s.oracle with tx := u.oracle.tx, draws := u.oracle.draws }, others := u.others }

/-- Memory and the coming actions of other threads are as they were. -/
def Alone (s u : State) : Prop := u.mem = s.mem ∧ u.others = s.others

theorem TransmitFrame.passed (hu : TimePassed s u) : TransmitFrame s u := by
  rw [hu.eq]

theorem TransmitFrame.hangs (hu : FrameHangs t s u) : TransmitFrame s u := by
  obtain ⟨dc, -, j, ph, b, l, o, v, ho, hv, rfl, -⟩ := hu
  rw [hv.eq, ho]
  rfl

theorem TransmitFrame.sent {st : Nat} (hu : FrameSent t st s u) : TransmitFrame s u := by
  obtain ⟨dc, -, k, o, v, ho, hv, rfl⟩ := hu
  rw [hv.eq, ho]
  rfl

theorem TransmitFrame.setRefused (r : Refusal) (hu : TransmitFrame s u) : TransmitFrame s (setRefused r u) := by
  rw [hu]
  rfl

theorem checkedSend_frame (hdev : s.dev = .attached) (hhandle : s.devHandle.isSome = true) (t : Desc) :
    Stays TransmitFrame s (checkedSend t s) := by
  refine (checkedSend_ends t s hdev hhandle).imp ?_ ?_
  · rintro u (hu | hu | ⟨v, hv | hv, rfl⟩)
    · obtain ⟨-, rfl⟩ | ⟨-, rfl⟩ | ⟨dc, -, -, rfl⟩ := hu
      · rfl
      · rfl
      · rfl
    · exact .hangs hu
    · exact (TransmitFrame.hangs hv).setRefused _
    · exact (TransmitFrame.passed hv).setRefused _
  · rintro st u (⟨hu, -⟩ | hu)
    · exact .passed hu
    · exact .sent hu

theorem sendFrame_alone (hq : Undisturbed s) (dc : DevCfg) (t : Desc) : Stays Alone s (sendFrame dc t s) := by
  cases hdraw : drawTx s with
  | mk a s' =>
    cases a with
    | status st k =>
      rw [sendFrame_of hq hdraw]
      exact ⟨rfl, rfl⟩
    | hang j =>
      obtain ⟨ph, b, l, hhang⟩ := sendFrame_hang_of (dc := dc) (t := t) hq hdraw
      rw [hhang]
      exact ⟨rfl, rfl⟩

theorem checkedSend_alone (hq : Undisturbed s) (t : Desc) : Stays Alone s (checkedSend t s) := by
  refine (readField_ends s.devcfg s).andThen' ?_ ?_
  · rintro u ⟨-, rfl⟩
    exact ⟨rfl, rfl⟩
  rintro dc u ⟨-, rfl⟩
  split
  · refine (readField_ends u.buscfg u).andThen' ?_ ?_
    · rintro v ⟨-, rfl⟩
      exact ⟨rfl, rfl⟩
    rintro bc v ⟨-, rfl⟩
    split
    · rw [passPoint_quiet hq]
      exact ⟨rfl, rfl⟩
    · exact sendFrame_alone hq dc t
  · exact ⟨rfl, rfl⟩

/-- A transmit stays within `R` where its checks and its frame do, and a fault does. -/
theorem exec_stays_of_frame {R : State → State → Prop} {i : Instr} (hi : (Instr.frame? s.params i).isSome = true)
    (hfault : ∀ f, R s (setFault f s)) (hret : ∀ r u, R s u → R s (setRet r u))
    (hsend : s.dev = .attached → s.devHandle.isSome = true → ∀ t, Stays R s (checkedSend t s))
    (h : exec i s = .next u) : R s u := by
  have hpoll (g : Nat) (t : Desc) : Stays R s (pollingTransmit g t s) := by
    refine (attachedHandle_ends s).andThen' ?_ ?_
    · rintro v (⟨-, rfl⟩ | ⟨-, -, rfl⟩)
      · exact hfault _
      · exact hfault _
    rintro g' v ⟨hdev, hhandle, rfl⟩
    split
    · exact hsend hdev (by simp [hhandle]) t
    · exact hfault _
  have htransmit (t : Desc) : Stays R s (transmit t s) := by
    refine (attachedHandle_ends s).andThen' ?_ ?_
    · rintro v (⟨-, rfl⟩ | ⟨-, -, rfl⟩)
      · exact hfault _
      · exact hfault _
    rintro g v ⟨-, -, rfl⟩
    exact hpoll g t
  obtain ⟨d, hd⟩ := Option.isSome_iff_exists.mp hi
  rcases frame?_eq_some hd with ⟨g, rfl⟩ | ⟨c, tx, rfl, -⟩ | ⟨rfl, -⟩ | ⟨tx, rfl, -⟩
  · exact (hpoll g d).finish hret h
  · exact (htransmit _).finish hret h
  · exact (htransmit _).finish hret h
  · exact (htransmit _).finish hret h

/-- ST_TOO_LONG is a non-zero member of STATUS (R151). -/
theorem stTooLong_of_paramsOk {p : Params} (h : paramsOk p = true) :
    p.stTooLong ≠ 0 ∧ statusMem p.stTooLong p.statuses = true := by
  simp only [paramsOk, Bool.and_eq_true, Bool.not_eq_true', beq_eq_false_iff_ne] at h
  obtain ⟨⟨⟨-, hne⟩, hmem⟩, -⟩ := h
  exact ⟨hne, hmem⟩

end Sys2Proof.Machine

open Sys2Proof Sys2Proof.Machine

/-- Settles O15: past its checks the transmit is its frame, and undisturbed the frame ends as its answer says. -/
theorem transmitStatusAndBeats : Obligations.TransmitStatusAndBeats := by
  intro s s' h dc bc t st k hatt hq hwf hfits hdraw
  rw [exec_of_frame hatt rfl (fun _ _ hi => (Instr.pollingTransmit.inj hi).1.symm),
    checkedSend_of_fits hatt hwf hfits, sendFrame_of hq hdraw, finish_ret]
  rfl

/-- Settles O17: past its checks the transmit is its frame, and with that in the queue a request is in progress. -/
theorem hangNeverReturns : Obligations.HangNeverReturns := by
  intro i s s' h dc bc t j hatt hq hi hh hwf hfits hdraw
  obtain ⟨ph, b, l, hhang⟩ := sendFrame_hang_of (dc := dc) (t := t) hq hdraw
  refine ⟨ph, b, l, _, ?_, rfl, fun hfault hrefused hparams hothers => ?_⟩
  · rw [exec_of_frame hatt hi hh, checkedSend_of_fits hatt hwf hfits, hhang, finish_stop]
  · exact step_of_inProgress hfault hrefused hparams (inProgress_hungFrame _ _ _ _ _) hothers

/-- Settles O18: each check ends the transmit where those before it have passed. -/
theorem transmitNotSent : Obligations.TransmitNotSent := by
  refine ⟨fun s h t hdev => ?_, fun s h h' t hdev hhandle hne => ?_,
    fun s h dc bc t hatt hq hwf hlong hparams => ⟨?_, stTooLong_of_paramsOk hparams⟩⟩
  · exact congrArg (finish .status) (pollingTransmit_of_not_attached hdev t)
  · exact congrArg (finish .status) (pollingTransmit_of_other_handle hdev hhandle hne t)
  · rw [exec_of_frame hatt rfl (fun _ _ hi => (Instr.pollingTransmit.inj hi).1.symm),
      checkedSend_of_long hatt hq hwf hlong, finish_ret]

/-- Settles O43: the frame is read off what the transmits can do; memory is changed by other threads alone. -/
theorem transmitsFrame : Obligations.TransmitsFrame := by
  intro i s t hi hexec
  refine ⟨?_, fun hq => ?_, fun a hnone => ?_⟩
  · exact exec_stays_of_frame (R := TransmitFrame) hi (fun _ => rfl) (fun _ _ hu => by rw [hu]; rfl) checkedSend_frame
      hexec
  · exact exec_stays_of_frame (R := Alone) hi (fun _ => ⟨rfl, rfl⟩) (fun _ _ hu => hu)
      (fun _ _ => checkedSend_alone hq) hexec
  · refine (exec_byteKept hnone ?_ hexec).2
    rintro src dst rfl
    cases hi

end

section
/-! SUPPORT. The copies of the rotator where no other thread acts (43_rotator.md R231, R232, R240, R242): what memory
holds after them, in terms of the memory before the first. -/

namespace Sys2Proof.Machine

variable {p : Params} {m0 m : Memory} {src dst : Buf} {f : Nat → Nat} {N n r : Nat} {s : State}

/-! ### What copies leave in memory -/

/-- `m` is canonical, and differs from `m0` in the first `N` elements of the scratch at most. -/
structure OnlyElems (p : Params) (m0 m : Memory) (dst : Buf) (N : Nat) : Prop where
  wf : m.wf = true
  rest : ∀ a, a < dst.base ∨ dst.base + p.pixelBytes * N ≤ a → memByte m a = memByte m0 a

/-- Besides, of those elements the first `n` are copies: element `e` of the source's element `f e`. -/
structure CopiedTo (p : Params) (m0 m : Memory) (src dst : Buf) (f : Nat → Nat) (N n : Nat) : Prop
    extends OnlyElems p m0 m dst N where
  elems : ∀ e b, e < n → b < p.pixelBytes →
    memByte m (dst.base + p.pixelBytes * e + b) = memByte m0 (src.base + p.pixelBytes * f e + b)

/-- The copies of source element `f e` to scratch element `e`, for each `e < N`, are within buffers that share no
byte. -/
structure CopyPlan (p : Params) (src dst : Buf) (f : Nat → Nat) (N : Nat) : Prop where
  apart : sharesByte src dst = false
  reads : ∀ e, e < N → p.pixelBytes * f e + p.pixelBytes ≤ src.len
  fits : p.pixelBytes * N ≤ dst.len

theorem OnlyElems.refl (hm : m.wf = true) : OnlyElems p m m dst N := ⟨hm, fun _ _ => rfl⟩

theorem OnlyElems.copied_none (src : Buf) (f : Nat → Nat) (h : OnlyElems p m0 m dst N) :
    CopiedTo p m0 m src dst f N 0 :=
  { h with elems := fun _ _ he => absurd he (Nat.not_lt_zero _) }

/-- Of two buffers that share no byte, the bytes of one are outside the other. -/
theorem outside_of_apart (h : sharesByte src dst = false) {a : Nat} (hlo : src.base ≤ a)
    (hhi : a < src.base + src.len) : a < dst.base ∨ dst.base + dst.len ≤ a := by
  have hdis : ¬ max src.base dst.base < min (src.base + src.len) (dst.base + dst.len) := of_decide_eq_false h
  omega

/-- A whole element before element `n` ends where that begins, or before. -/
theorem mul_add_lt_mul {P e b n : Nat} (he : e < n) (hb : b < P) : P * e + b < P * n := by
  have := Nat.mul_le_mul_left P (Nat.succ_le_of_lt he)
  rw [Nat.mul_succ] at this
  omega

/-- The copies so far have not touched the source. -/
theorem OnlyElems.source (h : OnlyElems p m0 m dst N) (plan : CopyPlan p src dst f N) {e b : Nat} (he : e < N)
    (hb : b < p.pixelBytes) :
    memByte m (src.base + p.pixelBytes * f e + b) = memByte m0 (src.base + p.pixelBytes * f e + b) := by
  have hread := plan.reads e he
  have hfits := plan.fits
  have hout := outside_of_apart plan.apart (a := src.base + p.pixelBytes * f e + b) (by omega) (by omega)
  exact h.rest _ (by omega)

/-- The next copy. -/
theorem CopiedTo.copy (h : CopiedTo p m0 m src dst f N n) (plan : CopyPlan p src dst f N) (hn : n < N) :
    CopiedTo p m0 (copyMem p src (f n) dst n m) src dst f N (n + 1) where
  wf := memSetBytes_wf _ _ h.wf
  rest a ha := by
    have hlast := Nat.mul_le_mul_left p.pixelBytes (Nat.succ_le_of_lt hn)
    rw [Nat.mul_succ] at hlast
    rw [copyMem, memByte_memSetBytes_other _ _ (by rw [memBytes_length]; omega), h.rest a ha]
  elems e b he hb := by
    rcases Nat.lt_succ_iff_lt_or_eq.mp he with hlt | rfl
    · have hbefore := mul_add_lt_mul hlt hb
      rw [copyMem, memByte_memSetBytes_other _ _ (by omega), h.elems e b hlt hb]
    · have hlen : b < (memBytes m (src.base + p.pixelBytes * f e) p.pixelBytes).length := by
        rwa [memBytes_length]
      rw [copyMem, memByte_memSetBytes_same _ h.wf hlen, memBytes_getElem, h.source plan hn hb]

/-- What each pass of a loop of copies takes a step further, the loop takes to its end. -/
theorem loopMem_induction {I : Nat → Memory → Prop} {g : Nat → Memory → Memory} (h : I 0 m)
    (hstep : ∀ i m, i < n → I i m → I (i + 1) (g i m)) : I n (loopMem g n m) := by
  induction n with
  | zero => exact h
  | succ n ih => exact hstep n _ (Nat.lt_succ_self n) (ih fun i m hi => hstep i m (Nat.lt_succ_of_lt hi))

/-! ### The square transpose -/

/-- The source element of scratch element `e`, which is element `e % ROT_H` of output row `e / ROT_H`. -/
def transposeSource (p : Params) (e : Nat) : Nat := e % p.rotH * p.rotW + e / p.rotH

theorem transposeSource_row {i j : Nat} (hj : j < p.rotH) :
    transposeSource p (i * p.rotH + j) = j * p.rotW + i := by
  have hpos : 0 < p.rotH := by omega
  have hmod : (i * p.rotH + j) % p.rotH = j := by
    rw [Nat.add_comm, Nat.add_mul_mod_self_right, Nat.mod_eq_of_lt hj]
  have hdiv : (i * p.rotH + j) / p.rotH = i := by
    rw [Nat.add_comm, Nat.add_mul_div_right _ _ hpos, Nat.div_eq_of_lt hj, Nat.zero_add]
  rw [transposeSource, hmod, hdiv]

theorem row_lt {W H i j : Nat} (hi : i < W) (hj : j < H) : i * H + j < W * H := by
  rw [Nat.mul_comm i, Nat.mul_comm W]
  exact mul_add_lt_mul hi hj

theorem transpose_plan (hshare : sharesByte src dst = false) (hlen : dst.len = src.len)
    (hsquare : src.len = rotSquareBytes p) : CopyPlan p src dst (transposeSource p) (p.rotW * p.rotH) where
  apart := hshare
  reads e he := by
    have hpos : 0 < p.rotH := Nat.pos_of_mul_pos_left (Nat.zero_lt_of_lt he)
    exact (transpose_in_bounds (Nat.div_lt_of_lt_mul (by rwa [Nat.mul_comm])) (Nat.mod_lt e hpos) hsquare.symm).1
  fits := by rw [hlen, hsquare, rotSquareBytes, Nat.mul_comm]

theorem transposeMem_copied (plan : CopyPlan p src dst (transposeSource p) (p.rotW * p.rotH)) (hm : m.wf = true) :
    CopiedTo p m (transposeMem p src dst m) src dst (transposeSource p) (p.rotW * p.rotH) (p.rotW * p.rotH) := by
  refine loopMem_induction
    (I := fun i m' => CopiedTo p m m' src dst (transposeSource p) (p.rotW * p.rotH) (i * p.rotH)) ?_ ?_
  · rw [Nat.zero_mul]
    exact (OnlyElems.refl hm).copied_none _ _
  · intro i m' hi h
    rw [Nat.succ_mul]
    refine loopMem_induction
      (I := fun j m' => CopiedTo p m m' src dst (transposeSource p) (p.rotW * p.rotH) (i * p.rotH + j)) h ?_
    intro j m' hj h
    rw [← transposeSource_row hj]
    exact h.copy plan (row_lt hi hj)

/-- The square path leaves the source transposed in the scratch (R232). -/
theorem transposeMem_transposed (hm : m.wf = true) (hshare : sharesByte src dst = false) (hlen : dst.len = src.len)
    (hsquare : src.len = rotSquareBytes p) : Transposed p m (transposeMem p src dst m) src dst := by
  have plan := transpose_plan hshare hlen hsquare
  have h := transposeMem_copied plan hm
  refine ⟨fun i j b hi hj hb => ?_, fun a ha => h.rest a ?_⟩
  · rw [h.elems _ b (row_lt hi hj) hb, transposeSource_row hj]
  · rwa [Nat.mul_comm, ← rotSquareBytes, ← hsquare, ← hlen]

/-! ### The gathers of the fallback -/

theorem gather_plan (hshare : sharesByte src dst = false) (hr : r < rotRows src dst) :
    CopyPlan p src dst (fun k => r + k * rotRows src dst) (rotCols p dst) where
  apart := hshare
  reads _ hk := (gather_in_bounds hr hk).1
  fits := Nat.mul_div_le _ _

theorem gatherMem_copied (h : OnlyElems p m0 m dst (rotCols p dst))
    (plan : CopyPlan p src dst (fun k => r + k * rotRows src dst) (rotCols p dst)) :
    CopiedTo p m0 (gatherMem p src dst (rotRows src dst) r m) src dst (fun k => r + k * rotRows src dst)
      (rotCols p dst) (rotCols p dst) :=
  loopMem_induction (I := fun k m' => CopiedTo p m0 m' src dst (fun k => r + k * rotRows src dst) (rotCols p dst) k)
    (h.copied_none _ _) fun _ _ hk h => h.copy plan hk

/-- The scratch after the gather of group `r`, byte by byte. -/
theorem CopiedTo.memBytes_eq_gathered
    (h : CopiedTo p m0 m src dst (fun k => r + k * rotRows src dst) (rotCols p dst) (rotCols p dst)) :
    memBytes m dst.base dst.len = gathered p m0 src dst r := by
  refine List.ext_getElem (by simp [gathered]) fun x hx hx' => ?_
  rw [memBytes_getElem]
  simp only [gathered, List.getElem_map, List.getElem_range]
  split
  next hin =>
    have hpos : 0 < p.pixelBytes := Nat.pos_of_mul_pos_right (Nat.zero_lt_of_lt hin)
    have helem := h.elems (x / p.pixelBytes) (x % p.pixelBytes) (Nat.div_lt_of_lt_mul hin) (Nat.mod_lt x hpos)
    rwa [Nat.add_assoc, Nat.div_add_mod] at helem
  next hout => exact h.rest _ (by omega)

/-- The memory `m` of a fallback that started with `m0` and has done the first `groups` gathers. -/
structure Gathering (p : Params) (m0 m : Memory) (src dst : Buf) (groups : Nat) : Prop
    extends OnlyElems p m0 m dst (rotCols p dst) where
  gatheredTo : GatheredTo p m0 m src dst groups

theorem Gathering.start (hm : m.wf = true) : Gathering p m m src dst 0 :=
  { OnlyElems.refl hm with gatheredTo := ⟨fun _ => rfl, fun h => absurd rfl h, fun _ _ => rfl⟩ }

/-- The next gather. -/
theorem Gathering.gather (h : Gathering p m0 m src dst r) (hshare : sharesByte src dst = false)
    (hr : r < rotRows src dst) : Gathering p m0 (gatherMem p src dst (rotRows src dst) r m) src dst (r + 1) :=
  have plan := gather_plan hshare hr
  have hcopied := gatherMem_copied h.toOnlyElems plan
  { hcopied.toOnlyElems with
    gatheredTo := ⟨fun h0 => absurd h0 (Nat.succ_ne_zero r), fun _ => hcopied.memBytes_eq_gathered, fun a ha =>
      hcopied.rest a (by have := plan.fits; omega)⟩ }

/-! ### Copying, step by step -/

/-- A loop whose passes each take memory a step further takes it to what `loopMem` says. -/
theorem forLoop_of_mem {body : Nat → State → Call Unit} {g : Nat → Memory → Memory}
    (hbody : ∀ i m, i < n → body i { s with mem := m } = .ret () { s with mem := g i m }) :
    forLoop body n 0 s = .ret () { s with mem := loopMem g n s.mem } := by
  have hends := Ends.forLoop (P := fun _ => False) (I := fun i u => u = { s with mem := loopMem g i s.mem })
    (body := body) n 0 s rfl fun i u _ hi hu => by rw [hu, hbody i _ (by omega)]; rfl
  rw [Nat.zero_add] at hends
  cases hc : forLoop body n 0 s with
  | ret a u =>
    rw [hc] at hends
    exact congrArg (Call.ret ()) hends
  | stop u =>
    rw [hc] at hends
    exact hends.elim

/-- A copy of the plan is made. -/
theorem copyElem_of_plan {e : Nat} (hothers : s.others = []) (plan : CopyPlan s.params src dst f N) (he : e < N) :
    copyElem src (f e) dst e s = .ret () { s with mem := copyMem s.params src (f e) dst e s.mem } := by
  have hlast := Nat.mul_le_mul_left s.params.pixelBytes (Nat.succ_le_of_lt he)
  have hfits := plan.fits
  rw [Nat.mul_succ] at hlast
  exact copyElem_in (.inl hothers) (plan.reads e he) (by omega)

theorem transpose_of_quiet (hothers : s.others = []) (hshare : sharesByte src dst = false) (hlen : dst.len = src.len)
    (hsquare : src.len = rotSquareBytes s.params) :
    transpose src dst s = .ret () { s with mem := transposeMem s.params src dst s.mem } := by
  have plan := transpose_plan hshare hlen hsquare
  refine forLoop_of_mem fun i m hi => ?_
  refine forLoop_of_mem (s := { s with mem := m }) fun j m' hj => ?_
  rw [← transposeSource_row hj]
  exact copyElem_of_plan (s := { s with mem := m' }) hothers plan (row_lt hi hj)

theorem gatherGroup_of_quiet (hothers : s.others = []) (hshare : sharesByte src dst = false)
    (hr : r < rotRows src dst) :
    gatherGroup src dst (rotRows src dst) r s =
      .ret () { s with mem := gatherMem s.params src dst (rotRows src dst) r s.mem } :=
  forLoop_of_mem fun _ m hk => copyElem_of_plan (s := { s with mem := m }) hothers (gather_plan hshare hr) hk

end Sys2Proof.Machine
end

section
/-! SUPPORT. A framer request where no other thread acts (42_framer.md R190, R200, R202; 43_rotator.md R231, R240):
what it has done after the frames that were answered so far, and what the next answer makes of it. -/

namespace Sys2Proof.Machine

variable {s₀ s u : State} {h : Nat} {dc : DevCfg} {bc : BusCfg} {ts : List Desc} {as bs : List TxAnswer} {a : TxAnswer}
  {m : Memory} {o o' : Oracle} {bufs : List Buf} {t : Desc}

/-! ### The answers to come -/

theorem drawTxs_congr (n : Nat) (ho : u.oracle = s.oracle) (hp : u.params = s.params) :
    drawTxs n u = drawTxs n s := by
  induction n generalizing s u with
  | zero => rw [drawTxs, drawTxs, ho]
  | succ n ih =>
    cases hs : drawTx s with
    | mk a s' =>
      have hparams : u.params = s'.params := hp.trans (congrArg State.params (drawTx_eq hs)).symm
      have hrest := ih (s := s') (u := { u with oracle := s'.oracle }) rfl hparams
      simp only [drawTxs, hs, drawTx_congr hs ho hp, hrest]

/-- The first of some answers. -/
theorem drawTxs_cons (hd : drawTxs (bs.length + 1) s = (a :: bs, o)) :
    ∃ s', drawTx s = (a, s') ∧ drawTxs bs.length s' = (bs, o) := by
  simp only [drawTxs, Prod.mk.injEq, List.cons.injEq] at hd
  obtain ⟨⟨rfl, hbs⟩, rfl⟩ := hd
  exact ⟨(drawTx s).2, rfl, Prod.ext hbs rfl⟩

/-- The last of some answers is the first from what the others leave. -/
theorem drawTxs_snoc (hd : drawTxs (bs.length + 1) s = (bs ++ [a], o)) :
    ∃ o₁, drawTxs bs.length s = (bs, o₁) ∧
      ∀ v : State, v.oracle = o₁ → v.params = s.params → ∃ v', drawTx v = (a, v') ∧ v'.oracle = o := by
  induction bs generalizing s with
  | nil =>
    obtain ⟨s', hs, ho⟩ := drawTxs_cons hd
    obtain rfl : s'.oracle = o := (Prod.mk.inj ho).2
    exact ⟨s.oracle, rfl, fun v hv hp => ⟨_, drawTx_congr hs hv hp, rfl⟩⟩
  | cons b bs ih =>
    obtain ⟨s', hs, hrest⟩ := drawTxs_cons (bs := bs ++ [a]) (by simpa using hd)
    obtain ⟨o₁, hbs, hlast⟩ := ih (by simpa using hrest)
    have hparams : s'.params = s.params := by rw [drawTx_eq hs]
    exact ⟨o₁, by simp [drawTxs, hs, hbs], fun v hv hp => hlast v hv (hp.trans hparams.symm)⟩

theorem GoesOn.cons {p : Params} (hgo : GoesOn p (a :: bs)) :
    (∃ st k, a = .status st k ∧ (st = 0 ∨ p.txPolicy = .ignored)) ∧ GoesOn p bs :=
  List.forall_mem_cons.mp hgo

/-- One more frame is one more entry. -/
theorem zipWith_snoc {α β γ : Type} (f : α → β → γ) {xs : List α} {x : α} (ys : List β) (y : β)
    (hx : xs[ys.length]? = some x) : List.zipWith f xs (ys ++ [y]) = List.zipWith f xs ys ++ [f x y] := by
  induction ys generalizing xs with
  | nil =>
    cases xs with
    | nil => simp at hx
    | cons x' xs =>
      obtain rfl : x' = x := by simpa using hx
      simp
  | cons y' ys ih =>
    cases xs with
    | nil => simp at hx
    | cons x' xs => simpa using ih (by simpa using hx)

/-! ### A request under way -/

/-- A request that started in `s₀`, holds the buffers `bufs` and has, of its frames `ts`, sent those answered by `as`:
memory is `m`, and the answers left are `o`. -/
def Underway (s₀ : State) (dc : DevCfg) (ts : List Desc) (as : List TxAnswer) (m : Memory) (o : Oracle)
    (bufs : List Buf) (u : State) : Prop :=
  u = { framed dc (List.zipWith (entryFor s₀.params dc) ts as) m o s₀ with
    seq := u.seq, queue := u.queue, desc := u.desc, lines := u.lines, ret := u.ret, held := bufs }

theorem Underway.start (s₀ : State) (dc : DevCfg) (ts : List Desc) (bufs : List Buf) :
    Underway s₀ dc ts [] s₀.mem s₀.oracle bufs (setHeld bufs (clearErr s₀)) := by
  simp [Underway, framed, setHeld, clearErr]

theorem Underway.setPos (op : SeqOp) (pos : Pos) (hu : Underway s₀ dc ts as m o bufs u) :
    Underway s₀ dc ts as m o bufs (setPos op pos u) := by
  rw [hu]
  rfl

theorem Underway.withMem (m' : Memory) (hu : Underway s₀ dc ts as m o bufs u) :
    Underway s₀ dc ts as m' o bufs { u with mem := m' } := by
  rw [hu]
  rfl

theorem Underway.params (hu : Underway s₀ dc ts as m o bufs u) : u.params = s₀.params := by rw [hu]; rfl

theorem Underway.mem (hu : Underway s₀ dc ts as m o bufs u) : u.mem = m := by rw [hu]; rfl

theorem Underway.oracle (hu : Underway s₀ dc ts as m o bufs u) : u.oracle = o := by rw [hu]; rfl

theorem Underway.others (hu : Underway s₀ dc ts as m o bufs u) : u.others = s₀.others := by rw [hu]; rfl

theorem Underway.attached (hatt : Attached s₀ h dc bc) (hu : Underway s₀ dc ts as m o bufs u) :
    Attached u h dc bc := by
  rw [hu]
  exact hatt

/-- The answers to come are a matter of what is left of them. -/
theorem Underway.drawTxs_eq {ts' : List Desc} {as' : List TxAnswer} {m' : Memory} {bufs' : List Buf} {v : State}
    (hu : Underway s₀ dc ts as m o bufs u) (hv : Underway s₀ dc ts' as' m' o bufs' v) (n : Nat) :
    drawTxs n v = drawTxs n u :=
  drawTxs_congr n (hv.oracle.trans hu.oracle.symm) (hv.params.trans hu.params.symm)

/-- At the start nothing is taken of them. -/
theorem Underway.drawTxs_start (hu : Underway s₀ dc ts as m s₀.oracle bufs u) (n : Nat) :
    drawTxs n u = drawTxs n s₀ :=
  drawTxs_congr n hu.oracle hu.params

/-- The call does not return: of the frames `ts` those answered by `as` are logged, and then `t` hangs after at most `j`
beats, with the request at `op`, `pos` (R159). -/
def HangsOn (s₀ : State) (dc : DevCfg) (ts : List Desc) (as : List TxAnswer) (m : Memory) (o : Oracle)
    (bufs : List Buf) (op : SeqOp) (pos : Pos) (t : Desc) (j : Nat) (c : Call Unit) : Prop :=
  ∃ ph b l, c = .stop (framedHangs dc (List.zipWith (entryFor s₀.params dc) ts as) m o t
    (min j (serialize s₀.params.multiline dc t).length) op pos bufs ph b l s₀)

theorem HangsOn.andThen {op : SeqOp} {pos : Pos} {j : Nat} {c : Call Unit}
    (hc : HangsOn s₀ dc ts as m o bufs op pos t j c) (f : Unit → State → Call Unit) :
    HangsOn s₀ dc ts as m o bufs op pos t j (andThen c f) := by
  obtain ⟨ph, b, l, rfl⟩ := hc
  exact ⟨ph, b, l, rfl⟩

/-! ### One frame -/

/-- The frames pass the checks, and the bus takes them. -/
def Sendable (m : Multiline) (dc : DevCfg) (bc : BusCfg) (ts : List Desc) : Prop :=
  ∀ t ∈ ts, t.wf m dc = true ∧ t.tx.length ≤ bc.maxTransferSize

section
variable (hatt : Attached s₀ h dc bc) (hquiet : s₀.others = []) (hts : Sendable s₀.params.multiline dc bc ts)
include hatt hts

theorem Underway.transmit (hu : Underway s₀ dc ts as m o bufs u) (ht : ts[as.length]? = some t) :
    transmit t u = sendFrame dc t u := by
  have hattu := hu.attached hatt
  have ⟨hdev, hhandle, _, _⟩ := hattu
  obtain ⟨hwf, hfits⟩ := hts t (List.mem_of_getElem? ht)
  rw [transmit_of hdev hhandle, checkedSend_of_fits hattu (by rw [hu.params]; exact hwf) hfits]

include hquiet

/-- A frame that is answered a status which lets the framer go on. -/
theorem Underway.answered (op : OpName) (off : Option Nat) {st k : Nat} {u' : State}
    (hu : Underway s₀ dc ts as m o bufs u) (ht : ts[as.length]? = some t) (hdraw : drawTx u = (.status st k, u'))
    (hgo : st = 0 ∨ s₀.params.txPolicy = .ignored) :
    ∃ v, framedSend op off t u = .ret () v ∧
      Underway s₀ dc ts (as ++ [.status st k]) m u'.oracle bufs v := by
  have hgoes : ¬ (st ≠ 0 ∧ u.params.txPolicy = .checked) := by
    rw [hu.params]
    rintro ⟨hne, hchecked⟩
    simp [hne, hchecked] at hgo
  refine ⟨afterFrame dc t st (beatsDriven st k (serialize u.params.multiline dc t).length) u'.oracle u, ?_, ?_⟩
  · rw [framedSend, hu.transmit hatt hts ht, sendFrame_of (.inl (hu.others.trans hquiet)) hdraw, andThen_ret]
    exact if_neg hgoes
  · unfold Underway
    rw [zipWith_snoc _ _ _ ht, hu.params, hu]
    simp [afterFrame, framed, entryFor, beatsDriven]

/-- The next of some frames whose answers let the framer go on. -/
theorem Underway.goesOn (op : OpName) (off : Option Nat) (hu : Underway s₀ dc ts as m o bufs u)
    (ht : ts[as.length]? = some t) (hdraw : drawTxs (bs.length + 1) u = (a :: bs, o'))
    (hgo : GoesOn s₀.params (a :: bs)) :
    ∃ o₁ v, framedSend op off t u = .ret () v ∧ Underway s₀ dc ts (as ++ [a]) m o₁ bufs v ∧
      drawTxs bs.length v = (bs, o') := by
  obtain ⟨⟨st, k, rfl, hst⟩, -⟩ := hgo.cons
  obtain ⟨u', hfirst, hrest⟩ := drawTxs_cons hdraw
  obtain ⟨v, hsend, hv⟩ := hu.answered hatt hquiet hts op off ht hfirst hst
  have hparams : u'.params = v.params := by rw [drawTx_eq hfirst, hv.params]; exact hu.params
  exact ⟨_, v, hsend, hv, (drawTxs_congr _ hv.oracle hparams.symm).trans hrest⟩

/-- A frame that hangs. -/
theorem Underway.hangs (op : OpName) (off : Option Nat) {j : Nat} {u' : State} {sop : SeqOp} {pos : Pos}
    (hu : Underway s₀ dc ts as m o bufs u) (ht : ts[as.length]? = some t) (hpos : u.seq.req = .busy sop pos)
    (hdraw : drawTx u = (.hang j, u')) :
    HangsOn s₀ dc ts as m u'.oracle bufs sop pos t j (framedSend op off t u) := by
  obtain ⟨ph, b, l, hhang⟩ := sendFrame_hang_of (dc := dc) (t := t) (.inl (hu.others.trans hquiet)) hdraw
  refine ⟨ph, b, l, ?_⟩
  rw [framedSend, hu.transmit hatt hts ht, hhang, andThen_stop, hungFrame, hpos, hu.params, hu]
  rfl

end

end Sys2Proof.Machine
end

section
/-! SUPPORT. The frames of WRITE_DATA and of the fallback where no other thread acts (42_framer.md R200, R202;
43_rotator.md R240, R245): the loops, frame by frame, while the answers let the framer go on, and the frame that
hangs. -/

namespace Sys2Proof.Machine

variable {s₀ u : State} {h : Nat} {dc : DevCfg} {bc : BusCfg} {done as : List TxAnswer} {m : Memory} {o o' : Oracle}
  {bufs : List Buf} {data src dst : Buf} {p : Params} {i r j : Nat}

/-! ### The chunks of a payload -/

/-- Chunk `i` of the buffer (R202). -/
def chunkFrame (p : Params) (m : Memory) (b : Buf) (i : Nat) : Desc :=
  dataFrame (memBytes m (b.base + i * p.chunkBytes) (min p.chunkBytes (b.len - i * p.chunkBytes)))

theorem dataStream_chunk (hi : i < chunkCount p data.len) :
    (dataStream p m data)[i + 1]? = some (chunkFrame p m data i) := by
  simp [dataStream, hi, chunkFrame]

theorem chunkBytes_pos (h : paramsOk p = true) : 0 < p.chunkBytes := by
  simp only [paramsOk, Bool.and_eq_true, Bool.not_eq_true', beq_eq_false_iff_ne] at h
  obtain ⟨⟨⟨⟨⟨hne, -⟩, -⟩, -⟩, -⟩, -⟩ := h
  exact Nat.pos_of_ne_zero hne

/-- There is a chunk `i` where its offset is within the payload. -/
theorem lt_chunkCount_iff (hp : 0 < p.chunkBytes) (len : Nat) : i < chunkCount p len ↔ i * p.chunkBytes < len := by
  rw [chunkCount, ← Nat.succ_le_iff, Nat.le_div_iff_mul_le hp, Nat.succ_mul]
  omega

theorem chunkCount_le (hp : 0 < p.chunkBytes) (len : Nat) : chunkCount p len ≤ len := by
  by_contra hlt
  have hoff := (lt_chunkCount_iff hp len).mp (Nat.lt_of_not_le hlt)
  have := Nat.le_mul_of_pos_right len hp
  omega

theorem sendable_dataStream {M : Multiline} (hbits : HeaderBits dc) (hfits : p.chunkBytes ≤ bc.maxTransferSize) :
    Sendable M dc bc (dataStream p m data) := by
  intro t ht
  rcases List.mem_cons.mp ht with rfl | ht
  · exact ⟨wf_hsFrame p hbits, Nat.zero_le _⟩
  · obtain ⟨i, -, rfl⟩ := List.mem_map.mp ht
    refine ⟨wf_dataFrame _, ?_⟩
    rw [tx_dataFrame, memBytes_length]
    omega

/-- Where the loop stands before chunk `i`, and after the last: at the payload's end. -/
def chunkOffset (p : Params) (len i : Nat) : Nat := min len (i * p.chunkBytes)

theorem chunkOffset_of_lt (hi : i * p.chunkBytes < data.len) : chunkOffset p data.len i = i * p.chunkBytes :=
  Nat.min_eq_right hi.le

theorem chunkOffset_succ (hi : i * p.chunkBytes < data.len) :
    i * p.chunkBytes + chunkLen p data.len (i * p.chunkBytes) = chunkOffset p data.len (i + 1) := by
  rw [chunkOffset, chunkLen, Nat.succ_mul]
  omega

/-- One pass of the chunk loop. -/
theorem Underway.chunkLoop_pass {ts : List Desc} (hu : Underway s₀ dc ts done m o bufs u)
    (hi : i * s₀.params.chunkBytes < data.len) (op : SeqOp) (at' : Pos → Pos) (n : Nat) :
    chunkLoop op at' data (n + 1) (chunkOffset s₀.params data.len i) u =
      andThen (framedSend .writeDataChunk (some (i * s₀.params.chunkBytes)) (chunkFrame s₀.params m data i)
        (Machine.setPos op (at' (.chunk (i * s₀.params.chunkBytes))) u)) fun _ v =>
          chunkLoop op at' data n (i * s₀.params.chunkBytes +
            chunkLen v.params data.len (i * s₀.params.chunkBytes)) v := by
  rw [chunkOffset_of_lt hi, chunkLoop, if_pos hi, hu.params, memRead_in (by unfold chunkLen; omega), andThen_ret,
    setPos_mem, hu.mem]
  rfl

/-! ### The groups of the fallback -/

theorem gatherStream_group (hr : r < rotRows src dst) :
    (gatherStream p m src dst)[r + 1]? = some (dataFrame (gathered p m src dst r)) := by
  simp [gatherStream, hr]

theorem gathered_length (p : Params) (m : Memory) (src dst : Buf) (r : Nat) :
    (gathered p m src dst r).length = dst.len := by
  simp [gathered]

theorem sendable_gatherStream {M : Multiline} (hbits : HeaderBits dc) (hfits : dst.len ≤ bc.maxTransferSize) :
    Sendable M dc bc (gatherStream p m src dst) := by
  intro t ht
  rcases List.mem_cons.mp ht with rfl | ht
  · exact ⟨wf_hsFrame p hbits, Nat.zero_le _⟩
  · obtain ⟨r, -, rfl⟩ := List.mem_map.mp ht
    refine ⟨wf_dataFrame _, ?_⟩
    rw [tx_dataFrame, gathered_length]
    exact hfits

/-- Row-group `r` of the fallback: its gather, and then one frame, of what it gathered. -/
theorem Underway.rotateGroup {ts : List Desc} (hquiet : s₀.others = []) (hshare : sharesByte src dst = false)
    (hu : Underway s₀ dc ts done m o bufs u) (hm : Gathering s₀.params s₀.mem m src dst r)
    (hr : r < rotRows src dst) :
    ∃ m' u', Gathering s₀.params s₀.mem m' src dst (r + 1) ∧ Underway s₀ dc ts done m' o bufs u' ∧
      u'.seq.req = .busy .writeDataRotate (.group r) ∧
      rotateGroup src dst (rotRows src dst) r u =
        framedSend .rotateChunk (some r) (dataFrame (gathered s₀.params s₀.mem src dst r)) u' := by
  have hu' := hu.setPos .writeDataRotate (.group r)
  have hgather := hm.gather hshare hr
  refine ⟨_, _, hgather, hu'.withMem _, rfl, ?_⟩
  obtain ⟨-, hbytes, -⟩ := hgather.gatheredTo
  rw [Machine.rotateGroup, gatherGroup_of_quiet (hu'.others.trans hquiet) hshare hr, andThen_ret,
    memRead_in (Nat.zero_add _).le, andThen_ret, hu'.params, hu'.mem, Nat.add_zero, hbytes (Nat.succ_ne_zero r)]
  rfl

/-! ### The two paths of the rotator -/

theorem rotateBody_of_square (hshare : sharesByte src dst = false) (hlen : dst.len = src.len) :
    rotateBody src dst u = rotateSquare src dst (clearErr u) := by
  rw [rotateBody, hshare, if_neg Bool.false_ne_true, if_pos hlen]

theorem rotateBody_of_fallback (hshare : sharesByte src dst = false) (hlen : dst.len ≠ src.len) :
    rotateBody src dst u = rotateFallback src dst (clearErr u) := by
  rw [rotateBody, hshare, if_neg Bool.false_ne_true, if_neg hlen]

/-- The square path transposes, and then does on the scratch what WRITE_DATA does. -/
theorem rotateSquare_transposes (dc : DevCfg) (ts : List Desc) (hquiet : s₀.others = [])
    (hshare : sharesByte src dst = false) (hlen : dst.len = src.len) (hsquare : src.len = rotSquareBytes s₀.params) :
    ∃ u, Underway s₀ dc ts [] (transposeMem s₀.params src dst s₀.mem) s₀.oracle [src, dst] u ∧
      rotateSquare src dst (clearErr s₀) = writeDataBody .writeDataRotate .delegate dst u := by
  have hstart := (Underway.start s₀ dc ts [src, dst]).setPos .writeDataRotate .transpose
  refine ⟨_, hstart.withMem _, ?_⟩
  rw [rotateSquare, clearErr_params, if_neg (not_not.mpr hsquare),
    transpose_of_quiet (hstart.others.trans hquiet) hshare hlen (by rw [hstart.params]; exact hsquare), andThen_ret]
  rfl

/-! ### While the answers let the framer go on -/

section
variable (hatt : Attached s₀ h dc bc) (hquiet : s₀.others = [])
include hatt hquiet

section
variable (hp : 0 < s₀.params.chunkBytes)
  (hts : Sendable s₀.params.multiline dc bc (dataStream s₀.params m data)) (op : SeqOp) (at' : Pos → Pos)
include hp hts

/-- The chunk loop after some more answers. -/
theorem Underway.chunkLoop_goesOn (hu : Underway s₀ dc (dataStream s₀.params m data) done m o bufs u)
    (hdone : done.length = i + 1) (hdraw : drawTxs as.length u = (as, o')) (hgo : GoesOn s₀.params as)
    (hle : i + as.length ≤ chunkCount s₀.params data.len) :
    ∃ v, Underway s₀ dc (dataStream s₀.params m data) (done ++ as) m o' bufs v ∧
      ∀ n, chunkLoop op at' data (n + as.length) (chunkOffset s₀.params data.len i) u =
        chunkLoop op at' data n (chunkOffset s₀.params data.len (i + as.length)) v := by
  induction as generalizing i done o u with
  | nil =>
    obtain rfl : u.oracle = o' := (Prod.mk.inj hdraw).2
    rw [List.append_nil, hu.oracle]
    exact ⟨u, hu, fun n => rfl⟩
  | cons a as ih =>
    rw [List.length_cons] at hle
    have hi : i < chunkCount s₀.params data.len := by omega
    have hoff := (lt_chunkCount_iff hp data.len).mp hi
    have hpos := hu.setPos op (at' (.chunk (i * s₀.params.chunkBytes)))
    obtain ⟨o₁, v, hsend, hv, hrest⟩ := hpos.goesOn hatt hquiet hts .writeDataChunk
      (some (i * s₀.params.chunkBytes)) (by rw [hdone]; exact dataStream_chunk hi)
      ((hu.drawTxs_eq hpos _).trans hdraw) hgo
    obtain ⟨w, hw, hloop⟩ := ih hv (i := i + 1) (by simp [hdone]) hrest hgo.cons.2 (by omega)
    refine ⟨w, by simpa using hw, fun n => ?_⟩
    rw [List.length_cons, ← Nat.add_assoc, hu.chunkLoop_pass hoff, hsend, andThen_ret, hv.params, chunkOffset_succ hoff,
      hloop, Nat.add_right_comm, ← Nat.add_assoc]

/-- WRITE_DATA's body, its own or the rotator's, after the handshake and some chunks. -/
theorem Underway.writeDataBody_goesOn {a : TxAnswer}
    (hu : Underway s₀ dc (dataStream s₀.params m data) [] m o bufs u)
    (hdraw : drawTxs (as.length + 1) u = (a :: as, o')) (hgo : GoesOn s₀.params (a :: as))
    (hle : as.length ≤ chunkCount s₀.params data.len) :
    ∃ v, Underway s₀ dc (dataStream s₀.params m data) (a :: as) m o' bufs v ∧
      ∀ n, data.len = n + as.length → writeDataBody op at' data u =
        andThen (chunkLoop op at' data n (chunkOffset s₀.params data.len as.length) v) fun _ s =>
          .ret () (setReqIdle s) := by
  have hpos := hu.setPos op (at' .hs)
  obtain ⟨o₁, v, hsend, hv, hrest⟩ := hpos.goesOn hatt hquiet hts .writeDataHandshake none rfl
    ((hu.drawTxs_eq hpos _).trans hdraw) hgo
  obtain ⟨w, hw, hloop⟩ := hv.chunkLoop_goesOn hatt hquiet hp hts op at' (i := 0) rfl hrest hgo.cons.2 (by omega)
  have hzero : chunkOffset s₀.params data.len 0 = 0 := by simp [chunkOffset]
  refine ⟨w, hw, fun n hn => ?_⟩
  rw [hzero, Nat.zero_add] at hloop
  rw [writeDataBody, hu.params, hsend, andThen_ret, ← hloop, ← hn]

/-! ### The frame of WRITE_DATA that hangs -/

theorem Underway.chunkLoop_hangs {u' : State} (hu : Underway s₀ dc (dataStream s₀.params m data) as m o bufs u)
    (has : as.length = i + 1) (hi : i < chunkCount s₀.params data.len) (hdraw : drawTx u = (.hang j, u')) (n : Nat) :
    HangsOn s₀ dc (dataStream s₀.params m data) as m u'.oracle bufs op (at' (.chunk (i * s₀.params.chunkBytes)))
      (chunkFrame s₀.params m data i) j
      (chunkLoop op at' data (n + 1) (chunkOffset s₀.params data.len i) u) := by
  have hpos := hu.setPos op (at' (.chunk (i * s₀.params.chunkBytes)))
  rw [hu.chunkLoop_pass ((lt_chunkCount_iff hp data.len).mp hi)]
  exact (hpos.hangs hatt hquiet hts .writeDataChunk (some (i * s₀.params.chunkBytes))
    (by rw [has]; exact dataStream_chunk hi) rfl (drawTx_congr hdraw rfl rfl)).andThen _

/-- WRITE_DATA's body, its own or the rotator's: its frame hangs once the answers before are used up. -/
theorem Underway.writeDataBody_hangs (hu : Underway s₀ dc (dataStream s₀.params m data) [] m o bufs u)
    (hdraw : drawTxs (as.length + 1) u = (as ++ [.hang j], o')) (hgo : GoesOn s₀.params as)
    (hle : as.length ≤ chunkCount s₀.params data.len) :
    ∃ t, (dataStream s₀.params m data)[as.length]? = some t ∧
      HangsOn s₀ dc (dataStream s₀.params m data) as m o' bufs op
        (at' (if as = [] then .hs else .chunk ((as.length - 1) * s₀.params.chunkBytes))) t j
        (writeDataBody op at' data u) := by
  obtain ⟨o₁, hbefore, hlast⟩ := drawTxs_snoc hdraw
  cases as with
  | nil =>
    obtain rfl : u.oracle = o₁ := (Prod.mk.inj hbefore).2
    obtain ⟨u', hhang, rfl⟩ := hlast _ (setPos_oracle u op (at' .hs)) rfl
    refine ⟨_, rfl, ?_⟩
    rw [writeDataBody, hu.params]
    exact ((hu.setPos op (at' .hs)).hangs hatt hquiet hts .writeDataHandshake none rfl rfl hhang).andThen _
  | cons a as =>
    rw [List.length_cons] at hle
    have hi : as.length < chunkCount s₀.params data.len := by omega
    obtain ⟨v, hv, hrun⟩ := hu.writeDataBody_goesOn hatt hquiet hp hts op at' hbefore hgo (by omega)
    obtain ⟨v', hhang, rfl⟩ := hlast v hv.oracle (hv.params.trans hu.params.symm)
    obtain ⟨n, hn⟩ := Nat.exists_eq_add_of_lt (Nat.lt_of_lt_of_le hi (chunkCount_le hp data.len))
    refine ⟨_, dataStream_chunk hi, ?_⟩
    rw [hrun (n + 1) (by omega)]
    exact (hv.chunkLoop_hangs hatt hquiet hp hts op at' rfl hi hhang n).andThen _

end

section
variable (hts : Sendable s₀.params.multiline dc bc (gatherStream s₀.params s₀.mem src dst))
  (hshare : sharesByte src dst = false)
include hts hshare

/-- The groups' loop after some more answers. -/
theorem Underway.rotateGroups_goesOn
    (hu : Underway s₀ dc (gatherStream s₀.params s₀.mem src dst) done m o bufs u)
    (hm : Gathering s₀.params s₀.mem m src dst r) (hdone : done.length = r + 1)
    (hdraw : drawTxs as.length u = (as, o')) (hgo : GoesOn s₀.params as) (hle : r + as.length ≤ rotRows src dst) :
    ∃ m' v, Gathering s₀.params s₀.mem m' src dst (r + as.length) ∧
      Underway s₀ dc (gatherStream s₀.params s₀.mem src dst) (done ++ as) m' o' bufs v ∧
      ∀ n, forLoop (Machine.rotateGroup src dst (rotRows src dst)) (n + as.length) r u =
        forLoop (Machine.rotateGroup src dst (rotRows src dst)) n (r + as.length) v := by
  induction as generalizing r done m o u with
  | nil =>
    obtain rfl : u.oracle = o' := (Prod.mk.inj hdraw).2
    rw [List.append_nil, hu.oracle]
    exact ⟨m, u, hm, hu, fun n => rfl⟩
  | cons a as ih =>
    rw [List.length_cons] at hle
    have hr : r < rotRows src dst := by omega
    obtain ⟨m₁, u₁, hm₁, hu₁, -, hgroup⟩ := hu.rotateGroup hquiet hshare hm hr
    obtain ⟨o₁, v, hsend, hv, hrest⟩ := hu₁.goesOn hatt hquiet hts .rotateChunk (some r)
      (by rw [hdone]; exact gatherStream_group hr) ((hu.drawTxs_eq hu₁ _).trans hdraw) hgo
    obtain ⟨m₂, w, hm₂, hw, hloop⟩ := ih hv hm₁ (by simp [hdone]) hrest hgo.cons.2 (by omega)
    have hidx : r + 1 + as.length = r + (as.length + 1) := by omega
    rw [hidx] at hm₂ hloop
    refine ⟨m₂, w, hm₂, by simpa using hw, fun n => ?_⟩
    rw [List.length_cons, ← Nat.add_assoc, forLoop_succ, hgroup, hsend, andThen_ret, hloop]

/-- The fallback after the handshake and some groups. -/
theorem rotateStream_goesOn {a : TxAnswer} (hmem : s₀.mem.wf = true)
    (hdraw : drawTxs (as.length + 1) s₀ = (a :: as, o')) (hgo : GoesOn s₀.params (a :: as))
    (hle : as.length ≤ rotRows src dst) :
    ∃ m v, Gathering s₀.params s₀.mem m src dst as.length ∧
      Underway s₀ dc (gatherStream s₀.params s₀.mem src dst) (a :: as) m o' [src, dst] v ∧
      ∀ n, rotRows src dst = n + as.length → rotateStream src dst (clearErr s₀) =
        andThen (forLoop (rotateGroup src dst (rotRows src dst)) n as.length v) fun _ s => .ret () (setReqIdle s) := by
  have hu := (Underway.start s₀ dc (gatherStream s₀.params s₀.mem src dst) [src, dst]).setPos .writeDataRotate .hs
  obtain ⟨o₁, v, hsend, hv, hrest⟩ := hu.goesOn hatt hquiet hts .rotateHandshake none rfl
    ((hu.drawTxs_start _).trans hdraw) hgo
  obtain ⟨m, w, hm, hw, hloop⟩ := hv.rotateGroups_goesOn hatt hquiet hts hshare (Gathering.start hmem) rfl hrest
    hgo.cons.2 (by omega)
  rw [Nat.zero_add] at hm hloop
  refine ⟨m, w, hm, hw, fun n hn => ?_⟩
  rw [rotateStream, clearErr_params, hsend, andThen_ret, ← hloop, ← hn]

/-! ### The frame of the fallback that hangs -/

/-- The fallback: its frame hangs once the answers before are used up, and its group has been gathered. -/
theorem rotateStream_hangs (hmem : s₀.mem.wf = true)
    (hdraw : drawTxs (as.length + 1) s₀ = (as ++ [.hang j], o')) (hgo : GoesOn s₀.params as)
    (hle : as.length ≤ rotRows src dst) :
    ∃ m t, GatheredTo s₀.params s₀.mem m src dst as.length ∧
      (gatherStream s₀.params s₀.mem src dst)[as.length]? = some t ∧
      HangsOn s₀ dc (gatherStream s₀.params s₀.mem src dst) as m o' [src, dst] .writeDataRotate
        (if as = [] then .hs else .group (as.length - 1)) t j (rotateStream src dst (clearErr s₀)) := by
  obtain ⟨o₁, hbefore, hlast⟩ := drawTxs_snoc hdraw
  cases as with
  | nil =>
    obtain rfl : s₀.oracle = o₁ := (Prod.mk.inj hbefore).2
    have hu := (Underway.start s₀ dc (gatherStream s₀.params s₀.mem src dst) [src, dst]).setPos .writeDataRotate .hs
    obtain ⟨u', hhang, rfl⟩ := hlast _ hu.oracle hu.params
    refine ⟨_, _, (Gathering.start hmem).gatheredTo, rfl, ?_⟩
    rw [rotateStream, clearErr_params]
    exact (hu.hangs hatt hquiet hts .rotateHandshake none rfl rfl hhang).andThen _
  | cons a as =>
    rw [List.length_cons] at hle
    have hr : as.length < rotRows src dst := by omega
    obtain ⟨m, v, hm, hv, hrun⟩ := rotateStream_goesOn hatt hquiet hts hshare hmem hbefore hgo (by omega)
    obtain ⟨n, hn⟩ := Nat.exists_eq_add_of_lt hr
    obtain ⟨m', v', hm', hv', hpos, hgroup⟩ := hv.rotateGroup hquiet hshare hm hr
    obtain ⟨v'', hhang, rfl⟩ := hlast v' hv'.oracle hv'.params
    refine ⟨m', _, hm'.gatheredTo, gatherStream_group hr, ?_⟩
    rw [hrun (n + 1) (by omega), forLoop_succ, hgroup]
    exact ((hv'.hangs hatt hquiet hts .rotateChunk (some as.length) (gatherStream_group hr) hpos hhang).andThen
      _).andThen _

end

/-! ### The requests -/

theorem writeCmdBody_hangs {b : Buf} {s' : State} (c : BitVec 8) (hbits : HeaderBits dc)
    (hfits : b.len ≤ bc.maxTransferSize) (hdraw : drawTx s₀ = (.hang j, s')) :
    HangsOn s₀ dc [cmdFrame s₀.params c (memBytes s₀.mem b.base b.len)] [] s₀.mem s'.oracle [b] .writeCmd .frame
      (cmdFrame s₀.params c (memBytes s₀.mem b.base b.len)) j (writeCmdBody c b s₀) := by
  have hts : Sendable s₀.params.multiline dc bc [cmdFrame s₀.params c (memBytes s₀.mem b.base b.len)] := by
    intro t ht
    obtain rfl := List.mem_singleton.mp ht
    exact ⟨wf_cmdFrame _ _ _ hbits, (memBytes_length _ _ _).trans_le hfits⟩
  have hu := (Underway.start s₀ dc [cmdFrame s₀.params c (memBytes s₀.mem b.base b.len)] [b]).setPos .writeCmd
    .frame
  have ⟨_, _, _, hbc⟩ := hatt
  rw [writeCmdBody, hbc, readField_some, andThen_ret, if_neg (Nat.not_lt.mpr hfits), memRead_in (Nat.zero_add _).le,
    andThen_ret, hu.params, hu.mem, Nat.add_zero]
  exact (hu.hangs hatt hquiet hts .writeCommand (some 0) rfl rfl (drawTx_congr hdraw rfl rfl)).andThen _

theorem rotateSquare_hangs (hbits : HeaderBits dc) (hparams : paramsOk s₀.params = true)
    (hfits : s₀.params.chunkBytes ≤ bc.maxTransferSize) (hmem : s₀.mem.wf = true) (hshare : sharesByte src dst = false)
    (hlen : dst.len = src.len) (hsquare : src.len = rotSquareBytes s₀.params)
    (hdraw : drawTxs (as.length + 1) s₀ = (as ++ [.hang j], o')) (hgo : GoesOn s₀.params as)
    (hle : as.length ≤ chunkCount s₀.params dst.len) :
    ∃ m t, Transposed s₀.params s₀.mem m src dst ∧ (dataStream s₀.params m dst)[as.length]? = some t ∧
      HangsOn s₀ dc (dataStream s₀.params m dst) as m o' [src, dst] .writeDataRotate
        (.delegate (if as = [] then .hs else .chunk ((as.length - 1) * s₀.params.chunkBytes))) t j
        (rotateSquare src dst (clearErr s₀)) := by
  obtain ⟨u, hu, hrun⟩ := rotateSquare_transposes dc
    (dataStream s₀.params (transposeMem s₀.params src dst s₀.mem) dst) hquiet hshare hlen hsquare
  rw [hrun]
  obtain ⟨t, ht, hhang⟩ := hu.writeDataBody_hangs hatt hquiet (chunkBytes_pos hparams)
    (sendable_dataStream hbits hfits) .writeDataRotate .delegate ((hu.drawTxs_start _).trans hdraw) hgo hle
  exact ⟨_, t, transposeMem_transposed hmem hshare hlen hsquare, ht, hhang⟩

theorem rotateFallback_hangs (hbits : HeaderBits dc) (hmem : s₀.mem.wf = true) (hshare : sharesByte src dst = false)
    (hne : dst.len ≠ 0) (hfits : dst.len ≤ bc.maxTransferSize)
    (hdraw : drawTxs (as.length + 1) s₀ = (as ++ [.hang j], o')) (hgo : GoesOn s₀.params as)
    (hle : as.length ≤ rotRows src dst) :
    ∃ m t, GatheredTo s₀.params s₀.mem m src dst as.length ∧
      (gatherStream s₀.params s₀.mem src dst)[as.length]? = some t ∧
      HangsOn s₀ dc (gatherStream s₀.params s₀.mem src dst) as m o' [src, dst] .writeDataRotate
        (if as = [] then .hs else .group (as.length - 1)) t j (rotateFallback src dst (clearErr s₀)) := by
  have ⟨_, _, _, hbc⟩ := hatt
  rw [rotateFallback, if_neg hne, clearErr_buscfg, hbc, readField_some, andThen_ret, if_neg (Nat.not_lt.mpr hfits)]
  exact rotateStream_hangs hatt hquiet (sendable_gatherStream hbits hfits) hshare hmem hdraw hgo hle

end

/-- A request whose first check is the lifecycle does not return in ACTIVE where its body does not. -/
theorem HangsOn.finish {s : State} {ts : List Desc} {op : SeqOp} {pos : Pos} {t : Desc} {body : State → Call Unit}
    (hlife : s.life = .active) (hhang : HangsOn s dc ts as m o bufs op pos t j (body s)) :
    ∃ ph b l, Machine.finish (fun _ => .code .ok) (Machine.andThen (requireActive s) fun _ s => body s) =
      .next (framedHangs dc (List.zipWith (entryFor s.params dc) ts as) m o t
        (min j (serialize s.params.multiline dc t).length) op pos bufs ph b l s) := by
  obtain ⟨ph, b, l, hstop⟩ := hhang
  exact ⟨ph, b, l, by rw [requireActive_of_active hlife, andThen_ret, hstop, finish_stop]⟩

end Sys2Proof.Machine

open Sys2Proof Sys2Proof.Machine

/-- Settles O57: the frames before are sent one by one, as the answers let the framer go on, and the next one
hangs. -/
theorem framerRequestsHang : Obligations.FramerRequestsHang := by
  intro s h dc bc hlife hatt hbits hquiet hparams hfits hmem
  refine ⟨fun c params b s' j hb hlen hdraw => ?_, fun b as o j hdraw hgo hle => ?_,
    fun src dst as o j hshare hdraw hgo => ⟨fun hlen hsquare hle => ?_, fun hlen hne hlong hle => ?_⟩⟩
  · subst hb
    exact (writeCmdBody_hangs hatt hquiet c hbits hlen hdraw).finish hlife
  · have hu := Underway.start s dc (dataStream s.params s.mem b) [b]
    obtain ⟨t, ht, hhang⟩ := hu.writeDataBody_hangs hatt hquiet (chunkBytes_pos hparams)
      (sendable_dataStream hbits hfits) .writeData id ((hu.drawTxs_start _).trans hdraw) hgo hle
    obtain ⟨ph, k, l, hexec⟩ := HangsOn.finish (s := s)
      (body := fun s => writeDataBody .writeData id b (setHeld [b] (clearErr s))) hlife hhang
    exact ⟨t, ph, k, l, ht, hexec⟩
  · obtain ⟨m, t, hm, ht, hhang⟩ := rotateSquare_hangs hatt hquiet hbits hparams hfits hmem hshare hlen hsquare hdraw
      hgo hle
    rw [← rotateBody_of_square hshare hlen] at hhang
    obtain ⟨ph, k, l, hexec⟩ := hhang.finish hlife
    exact ⟨m, t, ph, k, l, hm, ht, hexec⟩
  · obtain ⟨m, t, hm, ht, hhang⟩ := rotateFallback_hangs hatt hquiet hbits hmem hshare hne hlong hdraw hgo hle
    rw [← rotateBody_of_fallback hshare hlen] at hhang
    obtain ⟨ph, k, l, hexec⟩ := hhang.finish hlife
    exact ⟨m, t, ph, k, l, hm, ht, hexec⟩

end

section
/-! SUPPORT. The framer's frames beat by beat, and as transmits of the opcode table (42_framer.md R192, R193, R196 to
R199). -/

namespace Sys2Proof.Machine

/-! ### A payload on one line, and the fields of a header as payloads (R157, R161, R193) -/

/-- A byte on D0, its most significant bit first. -/
def singleBeats (tag : Phase) (b : Byte) : List Beat :=
  [7, 6, 5, 4, 3, 2, 1, 0].map fun k => bitBeat tag (b.getLsbD k)

theorem phaseBeats_single (tag : Phase) (bits : List Bool) :
    phaseBeats .single tag bits = bits.map (singleBeat tag) := rfl

theorem phaseBeats_single_payloadBits (tag : Phase) (tx : List Byte) :
    phaseBeats .single tag (payloadBits tx) = tx.flatMap (singleBeats tag) := by
  induction tx with
  | nil => rfl
  | cons b tx ih =>
    have hbyte : (bitsMsb 8 b.toNat).map (singleBeat tag) = singleBeats tag b := by
      rw [bitsMsb_byte, List.map_map]
      rfl
    rw [phaseBeats_single] at ih ⊢
    rw [payloadBits_cons, List.map_append, hbyte, ih, List.flatMap_cons]

/-- An 8-bit command is shifted out as a payload of one byte. -/
theorem bitsMsb_command (b : Byte) : bitsMsb 8 b.toNat = payloadBits [b] := by
  rw [payloadBits_cons, payloadBits_nil, List.append_nil]

/-- The address of a CMD_FRAME is shifted out as a payload of three bytes: C is the middle one (R193). -/
theorem bitsMsb_cmdAddress (c : BitVec 8) : bitsMsb 24 (c.toNat <<< 8) = payloadBits [0, c, 0] := by
  simp [payloadBits, bitsMsb, Nat.testBit_shiftLeft, BitVec.testBit_toNat]

/-! ### The fields of the frames -/

@[simp] theorem cmdFrame_fields (p : Params) (c : BitVec 8) (tx : List Byte) :
    (cmdFrame p c tx).cmd = p.wcCmd.toNat ∧ (cmdFrame p c tx).addr = c.toNat <<< 8 ∧ (cmdFrame p c tx).tx = tx :=
  ⟨rfl, rfl, rfl⟩

@[simp] theorem hsFrame_fields (p : Params) :
    (hsFrame p).cmd = p.hsCmd.toNat ∧ (hsFrame p).addr = p.hsAddr.toNat ∧ (hsFrame p).tx = [] :=
  ⟨rfl, rfl, rfl⟩

/-- The fields of a CMD_FRAME as R192 writes them. -/
theorem cmdFrame_eq (p : Params) (c : BitVec 8) (tx : List Byte) :
    cmdFrame p c tx = ⟨0x0210, p.wcCmd.toNat, c.toNat * 256, 0, 0, 0, tx, 8 * tx.length⟩ := by
  rw [cmdFrame, Nat.shiftLeft_eq]

/-! ### The transmits of the opcode table -/

/-- A transmit of a descriptor that passes the checks and that the bus takes, answered a status (R150). -/
theorem exec_frame_answered {i : Instr} {s s' : State} {h : Nat} {dc : DevCfg} {bc : BusCfg} {t : Desc} {st k : Nat}
    (hatt : Attached s h dc bc) (hquiet : Undisturbed s) (hdraw : drawTx s = (.status st k, s'))
    (hi : Instr.frame? s.params i = some t) (hh : ∀ h' d, i = .pollingTransmit h' d → h' = h)
    (hwf : t.wf s.params.multiline dc = true) (hfits : t.tx.length ≤ bc.maxTransferSize) :
    exec i s = .next (setRet (.status st) (afterFrame dc t st
      (beatsDriven st k (serialize s.params.multiline dc t).length) s'.oracle s)) := by
  rw [exec_of_frame hatt hi hh, checkedSend_of_fits hatt hwf hfits, sendFrame_of hquiet hdraw, finish_ret]

end Sys2Proof.Machine

open Sys2Proof Sys2Proof.Machine

/-- Settles O8: the checks of each of the three frames. -/
theorem framerDescriptorsPassChecks : Obligations.FramerDescriptorsPassChecks :=
  fun _ _ p c tx hbits => ⟨wf_cmdFrame p c tx hbits, wf_hsFrame p hbits, wf_dataFrame tx⟩

/-- Settles O12: command and address go four bits a beat, two beats for each of their bytes, and the payload one bit a
beat. -/
theorem cmdFrameBeats : Obligations.CmdFrameBeats := by
  intro dc p c tx hbits hdummy hwidth hwc
  obtain ⟨hcmd, haddr⟩ := hbits
  have hheader : serialize .absoluteQuad dc (cmdFrame p c tx) =
      quadBeats .cmd (bitsMsb 8 (0x02 : Byte).toNat) ++ quadBeats .addr (bitsMsb 24 (c.toNat <<< 8)) ++
        phaseBeats .single .data (payloadBits tx) := by
    simp [serialize, widthCmd, widthAddr, widthHeader, widthData, hcmd, haddr, hdummy, hwidth, hwc,
      phaseBeats_quad]
  rw [hheader, bitsMsb_command, bitsMsb_cmdAddress, quadBeats_payloadBits, quadBeats_payloadBits,
    phaseBeats_single_payloadBits]
  rfl

/-- Settles O13: command and address go one bit a beat, and there is no payload. -/
theorem handshakeBeats : Obligations.HandshakeBeats := by
  intro m dc p hbits hdummy hcmd haddr
  obtain ⟨hcmdBits, haddrBits⟩ := hbits
  have hheader : serialize m dc (hsFrame p) =
      (bitsMsb 8 0x32).map (singleBeat .cmd) ++ (bitsMsb 24 0x002C00).map (singleBeat .addr) := by
    simp [serialize, widthCmd, widthAddr, widthHeader, hcmdBits, haddrBits, hdummy, hcmd, haddr, phaseBeats_single]
  rw [hheader]
  rfl

/-- Settles O16: each frame passes the checks, so its transmit ends as its answer says. -/
theorem framesTransmitTheirDescriptor : Obligations.FramesTransmitTheirDescriptor := by
  intro s s' h dc bc c tx st k hatt hbits hquiet hdraw
  refine ⟨fun hfits => ?_, ?_, fun hfits => ?_⟩
  · rw [← cmdFrame_eq]
    exact exec_frame_answered hatt hquiet hdraw rfl (fun _ _ hi => nomatch hi) (wf_cmdFrame s.params c tx hbits) hfits
  · exact exec_frame_answered hatt hquiet hdraw rfl (fun _ _ hi => nomatch hi) (wf_hsFrame s.params hbits)
      (Nat.zero_le _)
  · exact exec_frame_answered hatt hquiet hdraw rfl (fun _ _ hi => nomatch hi) (wf_dataFrame tx) hfits

end

section
/-! SUPPORT. The framer where no other thread acts: how a request's last frame ends it, in OK or in E_TX, and where
WRITE_DATA stands before each of its frames (42_framer.md R190, R194, R200, R202, R203). -/

namespace Sys2Proof.Machine

variable {s₀ s u v : State} {h : Nat} {dc : DevCfg} {bc : BusCfg} {ts : List Desc} {as : List TxAnswer} {m : Memory}
  {o o' : Oracle} {bufs : List Buf} {t : Desc} {st k : Nat}

/-! ### The answers -/

theorem drawTxs_length (n : Nat) (s : State) : (drawTxs n s).1.length = n := by
  induction n generalizing s with
  | zero => rfl
  | succ n ih => rw [drawTxs, List.length_cons, ih]

/-- The last of one and more answers. -/
theorem drawTxs_concat {n : Nat} {answers : List TxAnswer} (hd : drawTxs (1 + n) s = (answers, o)) :
    ∃ as a, answers = as ++ [a] ∧ as.length = n := by
  have hlen : answers.length = n + 1 := by rw [← drawTxs_length (n + 1) s, Nat.add_comm n, hd]
  rcases List.eq_nil_or_concat' answers with rfl | ⟨as, a, rfl⟩
  · cases hlen
  · exact ⟨as, a, rfl, by simpa using hlen⟩

/-! ### The end of a request -/

/-- The frame before has left the lines at rest (R43, R44). -/
def LinesAtRest (dc : DevCfg) (u : State) : Prop :=
  u = { u with queue := [], desc := none, seq := ⟨u.seq.req, none, 0⟩, lines := ⟨idleSck dc.mode, ⟨.z, .z, .z, .z⟩⟩ }

/-- A framed transmit that the bus takes and that returns has left the lines at rest. -/
theorem framedSend_linesAtRest {op : OpName} {off : Option Nat} (hatt : Attached s h dc bc)
    (hfits : t.tx.length ≤ bc.maxTransferSize) (hsend : framedSend op off t s = .ret () v) : LinesAtRest dc v := by
  obtain ⟨-, -, hdc, hbc⟩ := hatt
  have hends := framedSend_ends op off t s
  rw [hsend] at hends
  obtain ⟨st, ⟨-, -, bc', hbc', hlong⟩ | ⟨dc', ⟨-, -, hdc', -⟩, k, o, s₁, -, -, rfl⟩, -⟩ := hends
  · obtain rfl : bc = bc' := Option.some.inj (hbc.symm.trans hbc')
    omega
  · obtain rfl : dc = dc' := Option.some.inj (hdc.symm.trans hdc')
    rfl

theorem sendable_singleton {M : Multiline} (hwf : t.wf M dc = true) (hfits : t.tx.length ≤ bc.maxTransferSize) :
    Sendable M dc bc [t] := by
  intro t' ht
  obtain rfl := List.mem_singleton.mp ht
  exact ⟨hwf, hfits⟩

/-- The request that is under way returns OK. -/
theorem Underway.returns (hu : Underway s₀ dc ts as m o bufs u) (hend : LinesAtRest dc u) :
    setRet (.code .ok) (setReqIdle u) = framed dc (List.zipWith (entryFor s₀.params dc) ts as) m o s₀ := by
  rw [hend, hu]
  rfl

section
variable (hatt : Attached s₀ h dc bc) (hquiet : s₀.others = []) (hts : Sendable s₀.params.multiline dc bc ts)
include hatt hquiet hts

/-- A frame that is answered a status which lets the framer go on, and after which the lines are at rest. -/
theorem Underway.sent (op : OpName) (off : Option Nat) {u' : State} (hu : Underway s₀ dc ts as m o bufs u)
    (ht : ts[as.length]? = some t) (hdraw : drawTx u = (.status st k, u'))
    (hgo : st = 0 ∨ s₀.params.txPolicy = .ignored) :
    ∃ v, framedSend op off t u = .ret () v ∧ Underway s₀ dc ts (as ++ [.status st k]) m u'.oracle bufs v ∧
      LinesAtRest dc v := by
  obtain ⟨v, hsend, hv⟩ := hu.answered hatt hquiet hts op off ht hdraw hgo
  have ⟨_, hfits⟩ := hts t (List.mem_of_getElem? ht)
  exact ⟨v, hsend, hv, framedSend_linesAtRest (hu.attached hatt) hfits hsend⟩

/-- A frame whose status is not 0 ends the request in E_TX under CHECKED (R194). -/
theorem Underway.fails (op : OpName) (off : Option Nat) {u' : State} (hu : Underway s₀ dc ts as m o bufs u)
    (ht : ts[as.length]? = some t) (hdraw : drawTx u = (.status st k, u')) (hst : st ≠ 0)
    (hchecked : s₀.params.txPolicy = .checked) :
    framedSend op off t u = .stop (framedFails dc
      (List.zipWith (entryFor s₀.params dc) ts (as ++ [.status st k])) m u'.oracle op st off s₀) := by
  have hraise : st ≠ 0 ∧ u.params.txPolicy = .checked := ⟨hst, by rw [hu.params]; exact hchecked⟩
  rw [framedSend, hu.transmit hatt hts ht, sendFrame_of (.inl (hu.others.trans hquiet)) hdraw, andThen_ret]
  refine (if_pos hraise).trans (congrArg Call.stop ?_)
  rw [zipWith_snoc _ _ _ ht, hu.params, hu]
  simp [raise, afterFrame, framedFails, framed, entryFor, beatsDriven]

end

theorem andThen_assoc {α β γ : Type} (c : Call α) (f : α → State → Call β) (g : β → State → Call γ) :
    andThen (andThen c f) g = andThen c fun a s => andThen (f a s) g := by
  cases c with
  | ret a s => rfl
  | stop s => rfl

/-- A request whose first check is the lifecycle does in ACTIVE what its body does. -/
theorem finish_of_active {body : State → Call Unit} (hlife : s.life = .active) :
    finish (fun _ => .code .ok) (andThen (requireActive s) fun _ s => body s) =
      finish (fun _ => .code .ok) (body s) := by
  rw [requireActive_of_active hlife, andThen_ret]

theorem exec_writeData_of_active {data : Buf} (hlife : s.life = .active) :
    exec (.writeData data) s = finish (fun _ => .code .ok)
      (writeDataBody .writeData id data (setHeld [data] (clearErr s))) :=
  finish_of_active (body := fun s => writeDataBody .writeData id data (setHeld [data] (clearErr s))) hlife

theorem exec_writeCmd_of_active {c : BitVec 8} {params : Option Buf} (hlife : s.life = .active) :
    exec (.writeCmd c params) s = finish (fun _ => .code .ok) (writeCmdBody c (paramBuf params) s) :=
  finish_of_active (body := writeCmdBody c (paramBuf params)) hlife

/-! ### WRITE_CMD -/

/-- The CMD_FRAME of the bytes of a buffer. -/
theorem cmdFrame_memBytes (p : Params) (c : BitVec 8) (m : Memory) (a n : Nat) :
    cmdFrame p c (memBytes m a n) = ⟨0x0210, p.wcCmd.toNat, c.toNat * 256, 0, 0, 0, memBytes m a n, 8 * n⟩ := by
  rw [cmdFrame_eq, memBytes_length]

theorem sendable_cmdFrame {M : Multiline} {p : Params} {b : Buf} (c : BitVec 8) (hbits : HeaderBits dc)
    (hfits : b.len ≤ bc.maxTransferSize) : Sendable M dc bc [cmdFrame p c (memBytes m b.base b.len)] :=
  sendable_singleton (wf_cmdFrame _ _ _ hbits) ((memBytes_length _ _ _).trans_le hfits)

/-- WRITE_CMD on parameters that the bus takes is one frame. -/
theorem writeCmdBody_of_fits {b : Buf} (c : BitVec 8) (hbc : s.buscfg = some bc)
    (hfits : b.len ≤ bc.maxTransferSize) :
    writeCmdBody c b s =
      andThen (framedSend .writeCommand (some 0) (cmdFrame s.params c (memBytes s.mem b.base b.len))
        (setPos .writeCmd .frame (setHeld [b] (clearErr s)))) fun _ s => .ret () (setReqIdle s) := by
  rw [writeCmdBody, hbc, readField_some, andThen_ret, if_neg (Nat.not_lt.mpr hfits),
    memRead_in (Nat.zero_add _).le, andThen_ret]
  rfl

theorem writeCmdBody_of_long {b : Buf} (c : BitVec 8) (hbc : s.buscfg = some bc)
    (hlong : bc.maxTransferSize < b.len) :
    writeCmdBody c b s = .stop (raise .tooLong .writeCommand none none (clearErr s)) := by
  rw [writeCmdBody, hbc, readField_some, andThen_ret, if_pos hlong]

/-! ### The chunks of WRITE_DATA -/

section
variable {data : Buf} {p : Params} {i : Nat}

theorem memBytes_append (m : Memory) (a n n' : Nat) :
    memBytes m a (n + n') = memBytes m a n ++ memBytes m (a + n) n' := by
  induction n generalizing a with
  | zero => rw [Nat.zero_add, Nat.add_zero, memBytes, List.nil_append]
  | succ n ih => rw [Nat.succ_add, memBytes, memBytes, ih, List.cons_append, Nat.add_right_comm, Nat.add_assoc]

theorem chunkFrame_tx : (chunkFrame p m data i).tx =
    memBytes m (data.base + i * p.chunkBytes) (chunkLen p data.len (i * p.chunkBytes)) := rfl

theorem dataStream_eq :
    dataStream p m data = hsFrame p :: (List.range (chunkCount p data.len)).map (chunkFrame p m data) := rfl

@[simp] theorem chunkOffset_zero (p : Params) (len : Nat) : chunkOffset p len 0 = 0 := by simp [chunkOffset]

/-- After the last chunk the loop stands at the payload's end. -/
theorem chunkOffset_chunkCount (hp : 0 < p.chunkBytes) (len : Nat) : chunkOffset p len (chunkCount p len) = len := by
  have hlast := mt (lt_chunkCount_iff hp len).mpr (Nat.lt_irrefl (chunkCount p len))
  exact Nat.min_eq_left (Nat.not_lt.mp hlast)

/-- The first `n` chunks carry the buffer up to where the loop then stands. -/
theorem flatMap_chunkFrame_tx (hp : 0 < p.chunkBytes) {n : Nat} (hn : n ≤ chunkCount p data.len) :
    ((List.range n).map (chunkFrame p m data)).flatMap Desc.tx =
      memBytes m data.base (chunkOffset p data.len n) := by
  induction n with
  | zero => simp [memBytes]
  | succ n ih =>
    have hoff := (lt_chunkCount_iff hp data.len).mp hn
    rw [List.range_succ, List.map_append, List.flatMap_append, ih (Nat.le_of_succ_le hn), ← chunkOffset_succ hoff,
      memBytes_append, chunkOffset_of_lt hoff]
    simp [chunkFrame_tx]

/-- The frames of WRITE_DATA carry the whole buffer (R202). -/
theorem flatMap_dataStream_tx (hp : 0 < p.chunkBytes) :
    (dataStream p m data).flatMap Desc.tx = memBytes m data.base data.len := by
  rw [dataStream_eq, List.flatMap_cons, flatMap_chunkFrame_tx hp le_rfl, chunkOffset_chunkCount hp]
  rfl

/-- No chunk is empty, and none is longer than CHUNK_BYTES (R202). -/
theorem chunkFrame_tx_length (hp : 0 < p.chunkBytes) (hi : i < chunkCount p data.len) :
    1 ≤ (chunkFrame p m data i).tx.length ∧ (chunkFrame p m data i).tx.length ≤ p.chunkBytes := by
  have hoff := (lt_chunkCount_iff hp data.len).mp hi
  rw [chunkFrame_tx, memBytes_length, chunkLen]
  omega

/-- At the payload's end the chunk loop returns. -/
theorem chunkLoop_end (op : SeqOp) (at' : Pos → Pos) (n : Nat) (u : State) :
    chunkLoop op at' data n data.len u = .ret () u := by
  cases n <;> rw [chunkLoop, if_neg (Nat.lt_irrefl _)]

end

/-! ### Before each frame of WRITE_DATA -/

/-- The operation of WRITE_DATA's frame after those answered by `as` (R194). -/
def dataOp (as : List TxAnswer) : OpName := if as = [] then .writeDataHandshake else .writeDataChunk

/-- The byte offset named with it, the chunk's (R194). -/
def dataOffset (p : Params) (as : List TxAnswer) : Option Nat :=
  if as = [] then none else some ((as.length - 1) * p.chunkBytes)

/-- WRITE_DATA's body, its own or the rotator's, once the answers `as` are used up: it sends the next frame, and then
goes on with the chunk loop from the chunk after it. -/
theorem Underway.writeDataBody_atFrame {data : Buf} (hatt : Attached s₀ h dc bc) (hquiet : s₀.others = [])
    (hp : 0 < s₀.params.chunkBytes) (hts : Sendable s₀.params.multiline dc bc (dataStream s₀.params m data))
    (op : SeqOp) (at' : Pos → Pos) (hu : Underway s₀ dc (dataStream s₀.params m data) [] m o bufs u)
    (hdraw : drawTxs as.length u = (as, o')) (hgo : GoesOn s₀.params as)
    (hle : as.length ≤ chunkCount s₀.params data.len) :
    ∃ t v n f, (dataStream s₀.params m data)[as.length]? = some t ∧
      Underway s₀ dc (dataStream s₀.params m data) as m o' bufs v ∧
      writeDataBody op at' data u = andThen (framedSend (dataOp as) (dataOffset s₀.params as) t v) f ∧
      ∀ w, w.params = s₀.params → f () w =
        andThen (chunkLoop op at' data n (chunkOffset s₀.params data.len as.length) w) fun _ s =>
          .ret () (setReqIdle s) := by
  cases as with
  | nil =>
    obtain rfl : u.oracle = o' := (Prod.mk.inj hdraw).2
    refine ⟨_, _, data.len, _, rfl, hu.oracle ▸ hu.setPos op (at' .hs), by rw [writeDataBody, hu.params]; rfl, ?_⟩
    intro w _
    rw [List.length_nil, chunkOffset_zero]
  | cons a as =>
    rw [List.length_cons] at hle
    have hoff := (lt_chunkCount_iff hp data.len).mp hle
    obtain ⟨v, hv, hrun⟩ := hu.writeDataBody_goesOn hatt hquiet hp hts op at' hdraw hgo (by omega)
    obtain ⟨n, hn⟩ := Nat.exists_eq_add_of_lt (Nat.lt_of_lt_of_le hle (chunkCount_le hp data.len))
    refine ⟨_, _, n, _, dataStream_chunk hle, hv.setPos op (at' (.chunk (as.length * s₀.params.chunkBytes))),
      by rw [hrun (n + 1) (by omega), hv.chunkLoop_pass hoff, andThen_assoc]; rfl, ?_⟩
    intro w hw
    rw [hw, chunkOffset_succ hoff, List.length_cons]

/-! ### The end of WRITE_DATA -/

section
variable {data : Buf} (hatt : Attached s₀ h dc bc) (hquiet : s₀.others = []) (hp : 0 < s₀.params.chunkBytes)
  (hts : Sendable s₀.params.multiline dc bc (dataStream s₀.params m data)) (op : SeqOp) (at' : Pos → Pos)
  (hu : Underway s₀ dc (dataStream s₀.params m data) [] m o bufs u)
include hatt hquiet hp hts hu

/-- WRITE_DATA's body, its own or the rotator's, stops at the first frame whose status is not 0 (R194). -/
theorem Underway.writeDataBody_fails (hchecked : s₀.params.txPolicy = .checked)
    (hdraw : drawTxs (as.length + 1) u = (as ++ [.status st k], o')) (hgo : GoesOn s₀.params as)
    (hle : as.length ≤ chunkCount s₀.params data.len) (hst : st ≠ 0) :
    writeDataBody op at' data u = .stop (framedFails dc
      (List.zipWith (entryFor s₀.params dc) (dataStream s₀.params m data) (as ++ [.status st k])) m o' (dataOp as) st
      (dataOffset s₀.params as) s₀) := by
  obtain ⟨o₁, hbefore, hlast⟩ := drawTxs_snoc hdraw
  obtain ⟨t, v, n, f, ht, hv, hrun, -⟩ := hu.writeDataBody_atFrame hatt hquiet hp hts op at' hbefore hgo hle
  obtain ⟨v', hfail, rfl⟩ := hlast v hv.oracle (hv.params.trans hu.params.symm)
  rw [hrun, hv.fails hatt hquiet hts _ _ ht hfail hst hchecked, andThen_stop]

/-- WRITE_DATA's body, its own or the rotator's, returns once its last chunk is answered (R202). -/
theorem Underway.writeDataBody_returns {a : TxAnswer}
    (hdraw : drawTxs (as.length + 1) u = (as ++ [a], o')) (hgo : GoesOn s₀.params (as ++ [a]))
    (hlen : as.length = chunkCount s₀.params data.len) :
    ∃ v, writeDataBody op at' data u = .ret () (setReqIdle v) ∧ LinesAtRest dc v ∧
      Underway s₀ dc (dataStream s₀.params m data) (as ++ [a]) m o' bufs v := by
  obtain ⟨o₁, hbefore, hlast⟩ := drawTxs_snoc hdraw
  obtain ⟨hgoBefore, hgoLast⟩ := List.forall_mem_append.mp hgo
  obtain ⟨st, k, rfl, hst⟩ := hgoLast a (List.mem_singleton_self a)
  obtain ⟨t, v, n, f, ht, hv, hrun, hrest⟩ := hu.writeDataBody_atFrame hatt hquiet hp hts op at' hbefore hgoBefore
    hlen.le
  obtain ⟨v', hanswer, rfl⟩ := hlast v hv.oracle (hv.params.trans hu.params.symm)
  obtain ⟨w, hsend, hw, hend⟩ := hv.sent hatt hquiet hts (dataOp as) (dataOffset s₀.params as) ht hanswer hst
  refine ⟨w, ?_, hend, hw⟩
  rw [hrun, hsend, andThen_ret, hrest w hw.params, hlen, chunkOffset_chunkCount hp, chunkLoop_end, andThen_ret]

end

end Sys2Proof.Machine

open Sys2Proof Sys2Proof.Machine

/-- Settles O31: one frame, which is sent or fails. -/
theorem writeCmdSendsOneFrame : Obligations.WriteCmdSendsOneFrame := by
  intro s s' h dc bc c params b st k hlife hatt hbits hquiet hb hfits hdraw
  obtain rfl : b = paramBuf params := hb
  have ⟨_, _, _, hbc⟩ := hatt
  rw [← cmdFrame_memBytes, exec_writeCmd_of_active hlife, writeCmdBody_of_fits c hbc hfits]
  have hts := sendable_cmdFrame (M := s.params.multiline) (p := s.params) (m := s.mem) c hbits hfits
  generalize cmdFrame s.params c _ = t at hts ⊢
  have hu := (Underway.start s dc [t] [paramBuf params]).setPos .writeCmd .frame
  have hdraw' := drawTx_congr (u := setPos .writeCmd .frame (setHeld [paramBuf params] (clearErr s))) hdraw rfl rfl
  refine ⟨fun hgo => ?_, fun hst hchecked => ?_⟩
  · obtain ⟨v, hsend, hv, hend⟩ := hu.sent hatt hquiet hts .writeCommand (some 0) rfl hdraw' hgo
    rw [hsend, andThen_ret, finish_ret, hv.returns hend]
    rfl
  · rw [hu.fails hatt hquiet hts .writeCommand (some 0) rfl hdraw' hst hchecked, andThen_stop, finish_stop]
    rfl

/-- Settles O32: the length is the first check after the lifecycle. -/
theorem writeCmdTooLong : Obligations.WriteCmdTooLong := by
  intro s bc c b hlife hbc hseq hheld hlong
  rw [exec_writeCmd_of_active hlife, writeCmdBody_of_long (b := paramBuf (some b)) c hbc hlong, finish_stop,
    raise_at_rest (s := clearErr s) hseq hheld]
  rfl

/-- Settles O33: the last frame's answer lets WRITE_DATA return, and the chunks are slices of the buffer. -/
theorem writeDataChunkLaw : Obligations.WriteDataChunkLaw := by
  intro s h dc bc b answers o hlife hatt hbits hquiet hparams hfits hdraw hgo
  have hp := chunkBytes_pos hparams
  refine ⟨?_, flatMap_dataStream_tx hp, fun t ht => ?_⟩
  · obtain ⟨as, a, rfl, hlen⟩ := drawTxs_concat hdraw
    have hu := Underway.start s dc (dataStream s.params s.mem b) [b]
    rw [Nat.add_comm, ← hlen] at hdraw
    obtain ⟨v, hbody, hend, hv⟩ := hu.writeDataBody_returns hatt hquiet hp (sendable_dataStream hbits hfits) .writeData
      id ((hu.drawTxs_start _).trans hdraw) hgo hlen
    rw [exec_writeData_of_active hlife, hbody, finish_ret, hv.returns hend]
  · obtain ⟨i, hi, rfl⟩ := List.mem_map.mp ht
    exact chunkFrame_tx_length hp (List.mem_range.mp hi)

/-- Settles O34: the frames before are sent one by one, and the next one fails. -/
theorem writeDataStopsAtFailure : Obligations.WriteDataStopsAtFailure := by
  intro s h dc bc b answers st k o hlife hatt hbits hquiet hparams hfits hchecked hdraw hle hgo hst
  have hu := Underway.start s dc (dataStream s.params s.mem b) [b]
  rw [exec_writeData_of_active hlife, hu.writeDataBody_fails hatt hquiet (chunkBytes_pos hparams)
    (sendable_dataStream hbits hfits) .writeData id hchecked ((hu.drawTxs_start _).trans hdraw) hgo hle hst,
    finish_stop]
  rfl

/-- Settles O35: after the handshake the loop is at the payload's end. -/
theorem writeDataOfNoBytes : Obligations.WriteDataOfNoBytes := by
  intro s s' h dc bc base k hlife hatt hbits hquiet hdraw
  have hts : Sendable s.params.multiline dc bc [hsFrame s.params] :=
    sendable_singleton (wf_hsFrame s.params hbits) (Nat.zero_le _)
  have hu := (Underway.start s dc [hsFrame s.params] [⟨base, 0⟩]).setPos .writeData .hs
  obtain ⟨v, hsend, hv, hend⟩ := hu.sent hatt hquiet hts .writeDataHandshake none rfl (drawTx_congr hdraw rfl rfl)
    (.inl rfl)
  have hbody : writeDataBody .writeData id ⟨base, 0⟩ (setHeld [⟨base, 0⟩] (clearErr s)) = .ret () (setReqIdle v) := by
    rw [writeDataBody, setHeld_params, clearErr_params, id, hsend, andThen_ret, chunkLoop_end, andThen_ret]
  rw [exec_writeData_of_active hlife, hbody, finish_ret, hv.returns hend]
  rfl

end

section
/-! SUPPORT. What the framer's requests leave unchanged (42_framer.md R190, R200, 43_rotator.md R230). -/

namespace Sys2Proof.Machine

variable {s u v : State} {t : Desc}

theorem Instr.Framer.sends {i : Instr} (hi : Instr.Framer i) : Instr.Sends i := by
  match i, hi with
  | .writeCmd _ _, _ => trivial
  | .writeData _, _ => trivial
  | .writeDataRotate _ _, _ => trivial

/-- A framer request changes these fields alone. -/
abbrev FramerFrame (s u : State) : Prop :=
  u = { s with
    seq := u.seq, desc := u.desc, lines := u.lines, queue := u.queue, log := u.log, err := u.err,
    fault := u.fault, refused := u.refused, ret := u.ret, held := u.held, wire := u.wire, mem := u.mem,
    oracle := { s.oracle with tx := u.oracle.tx, draws := u.oracle.draws }, others := u.others }

/-- What a transmit leaves unchanged, a framer request may. -/
theorem FramerFrame.transmit (hv : TransmitFrame u v) (hu : FramerFrame s u) : FramerFrame s v := by
  rw [hv, hu]

/-- Every single update of the framer is within its frame. -/
theorem framerKeeps_frame (s : State) : FramerKeeps (FramerFrame s) (FramerFrame s) where
  fault _ _ _ _ h := by rw [h]; rfl
  unwritten _ _ h := by rw [h]; rfl
  refused _ _ _ h := by rw [h]; rfl
  illFormed _ _ _ _ _ _ h := by rw [h]; rfl
  raise _ _ _ _ _ _ h := by rw [h]; rfl
  clearErr _ h := by rw [h]; rfl
  setPos _ _ _ h := by rw [h]; rfl
  setHeld _ _ h := by rw [h]; rfl
  setReqIdle _ h := by rw [h]; rfl
  sent _ _ _ _ hu h := h.transmit (.sent hu)
  passed _ _ hu h := h.transmit (.passed hu)
  hangs _ _ _ hu h := h.transmit (.hangs hu)
  cut _ _ _ hu h := h.transmit ((TransmitFrame.hangs hu).setRefused .concurrent)

/-- No other thread is to act, and memory is as it was, if `keeps`. -/
def QuietMem (keeps : Prop) (s u : State) : Prop := u.others = [] ∧ (keeps → u.mem = s.mem)

variable {keeps : Prop}

/-- Where no other thread is to act none comes. -/
theorem QuietMem.passed (hv : TimePassed u v) (h : QuietMem keeps s u) : QuietMem keeps s v := by
  obtain ⟨hothers, hmem⟩ := h
  obtain ⟨pre, hcame⟩ := hv
  obtain ⟨rfl, hleft⟩ : pre = [] ∧ v.others = [] := by simpa [hothers] using hcame.order.symm
  exact ⟨hleft, fun hk => (hcame.quiet rfl).trans (hmem hk)⟩

theorem QuietMem.sent {st : Nat} (hv : FrameSent t st u v) (h : QuietMem keeps s u) : QuietMem keeps s v := by
  obtain ⟨dc, -, k, o, w, -, hw, rfl⟩ := hv
  exact show QuietMem keeps s w from h.passed hw

theorem QuietMem.hangs (hv : FrameHangs t u v) (h : QuietMem keeps s u) : QuietMem keeps s v := by
  obtain ⟨dc, -, j, ph, b, l, o, w, -, hw, rfl, -⟩ := hv
  exact show QuietMem keeps s w from h.passed hw

theorem framerKeeps_quietMem (keeps : Prop) (s : State) : FramerKeeps (QuietMem keeps s) (QuietMem keeps s) where
  fault _ _ _ _ h := h
  unwritten _ _ h := h
  refused _ _ _ h := h
  illFormed _ _ _ _ _ _ h := h
  raise _ _ _ _ _ _ h := h
  clearErr _ h := h
  setPos _ _ _ h := h
  setHeld _ _ h := h
  setReqIdle _ h := h
  sent _ _ _ _ hu h := h.sent hu
  passed _ _ hu h := h.passed hu
  hangs _ _ _ hu h := h.hangs hu
  cut _ _ u hu h := show QuietMem keeps s u from h.hangs hu

end Sys2Proof.Machine

open Sys2Proof Sys2Proof.Machine

/-- Settles O42: every single update of the framer is within the frame; memory is changed by the rotator's stores into
its scratch and by other threads alone. -/
theorem framerRequestsFrame : Obligations.FramerRequestsFrame := by
  intro i s t hi hexec
  refine ⟨?_, fun hquiet => ?_, fun a hnone hout => (exec_byteKept hnone hout hexec).2⟩
  · exact exec_keeps_of_sends (framerKeeps_frame s) (fun _ _ h => by rw [h]; rfl) rfl
      (fun _ _ _ _ _ _ _ h => by rw [h]) (fun _ _ _ => rfl) hi.sends hexec
  · have hs : QuietMem (∀ src dst, i ≠ .writeDataRotate src dst) s s := ⟨hquiet, fun _ => rfl⟩
    exact exec_keeps_of_sends (framerKeeps_quietMem _ s) (fun _ _ h => h) hs
      (fun src dst hrot _ _ _ _ ⟨hothers, _⟩ => ⟨hothers, fun hk => absurd hrot (hk src dst)⟩)
      (fun _ _ _ => hs) hi.sends hexec

end

section
/-! SUPPORT. WRITE_DATA_ROTATE where no other thread acts: its checks, and how the frames of its two paths end it, in OK
or in E_TX (43_rotator.md R230, R231, R240, R241, R245, R247). -/

namespace Sys2Proof.Machine

variable {s s₀ : State} {h : Nat} {dc : DevCfg} {bc : BusCfg} {as : List TxAnswer} {a : TxAnswer} {o : Oracle}
  {src dst : Buf} {st k : Nat}

/-! ### The checks -/

theorem exec_writeDataRotate_of_active (hlife : s.life = .active) :
    exec (.writeDataRotate src dst) s = finish (fun _ => .code .ok) (rotateBody src dst s) :=
  finish_of_active (body := rotateBody src dst) hlife

theorem rotateBody_of_shared (hshare : sharesByte src dst = true) :
    rotateBody src dst s = .stop (setFault .aliased s) := by
  rw [rotateBody, if_pos hshare]

theorem sharesByte_of_empty (src : Buf) (hempty : dst.len = 0) : sharesByte src dst = false := by
  refine decide_eq_false ?_
  rw [bufEnd, bufEnd, hempty]
  omega

theorem rotateSquare_of_other_size (hsize : src.len ≠ rotSquareBytes s.params) :
    rotateSquare src dst s = .stop (raise .geometry .writeDataRotate none none s) := by
  rw [rotateSquare, if_pos hsize]

theorem rotateFallback_of_empty (hempty : dst.len = 0) :
    rotateFallback src dst s = .stop (raise .geometry .writeDataRotate none none s) := by
  rw [rotateFallback, if_pos hempty]

theorem rotateFallback_of_long (hbc : s.buscfg = some bc) (hlong : bc.maxTransferSize < dst.len) :
    rotateFallback src dst s = .stop (raise .tooLong .writeDataRotate none none s) := by
  rw [rotateFallback, if_neg (Nat.ne_zero_of_lt hlong), hbc, readField_some, andThen_ret, if_pos hlong]

theorem rotateFallback_of_fits (hbc : s.buscfg = some bc) (hne : dst.len ≠ 0)
    (hfits : dst.len ≤ bc.maxTransferSize) : rotateFallback src dst s = rotateStream src dst s := by
  rw [rotateFallback, if_neg hne, hbc, readField_some, andThen_ret, if_neg (Nat.not_lt.mpr hfits)]

/-! ### Before each frame of the fallback -/

/-- The operation of the fallback's frame after those answered by `as` (R240). -/
def groupOp (as : List TxAnswer) : OpName := if as = [] then .rotateHandshake else .rotateChunk

/-- The row-group named with it (R240). -/
def groupOffset (as : List TxAnswer) : Option Nat := if as = [] then none else some (as.length - 1)

section
variable (hatt : Attached s₀ h dc bc) (hquiet : s₀.others = [])
  (hts : Sendable s₀.params.multiline dc bc (gatherStream s₀.params s₀.mem src dst))
  (hshare : sharesByte src dst = false) (hmem : s₀.mem.wf = true)
include hatt hquiet hts hshare hmem

/-- The fallback, once the answers `as` are used up: the group of its next frame is gathered, it sends that frame, and
then goes on with the group after it. -/
theorem rotateStream_atFrame (hdraw : drawTxs as.length s₀ = (as, o)) (hgo : GoesOn s₀.params as)
    (hle : as.length ≤ rotRows src dst) :
    ∃ m t v, GatheredTo s₀.params s₀.mem m src dst as.length ∧
      (gatherStream s₀.params s₀.mem src dst)[as.length]? = some t ∧
      Underway s₀ dc (gatherStream s₀.params s₀.mem src dst) as m o [src, dst] v ∧
      rotateStream src dst (clearErr s₀) = andThen (framedSend (groupOp as) (groupOffset as) t v) fun _ w =>
        andThen (forLoop (rotateGroup src dst (rotRows src dst)) (rotRows src dst - as.length) as.length w) fun _ s =>
          .ret () (setReqIdle s) := by
  cases as with
  | nil =>
    obtain rfl : s₀.oracle = o := (Prod.mk.inj hdraw).2
    exact ⟨_, _, _, (Gathering.start hmem).gatheredTo, rfl,
      (Underway.start s₀ dc _ [src, dst]).setPos .writeDataRotate .hs, rfl⟩
  | cons a as =>
    obtain ⟨m, v, hm, hv, hrun⟩ := rotateStream_goesOn hatt hquiet hts hshare hmem hdraw hgo (Nat.le_of_succ_le hle)
    obtain ⟨m', v', hm', hv', -, hgroup⟩ := hv.rotateGroup hquiet hshare hm hle
    have hleft : rotRows src dst = rotRows src dst - (as.length + 1) + 1 + as.length := by
      rw [List.length_cons] at hle
      omega
    refine ⟨m', _, v', hm'.gatheredTo, gatherStream_group hle, hv', ?_⟩
    rw [hrun _ hleft, forLoop_succ, hgroup, andThen_assoc]
    rfl

/-! ### The end of the fallback -/

/-- The fallback stops at the first frame whose status is not 0 (R240). -/
theorem rotateStream_fails (hchecked : s₀.params.txPolicy = .checked)
    (hdraw : drawTxs (as.length + 1) s₀ = (as ++ [.status st k], o)) (hgo : GoesOn s₀.params as)
    (hle : as.length ≤ rotRows src dst) (hst : st ≠ 0) :
    ∃ m, GatheredTo s₀.params s₀.mem m src dst as.length ∧
      rotateStream src dst (clearErr s₀) = .stop (framedFails dc
        (List.zipWith (entryFor s₀.params dc) (gatherStream s₀.params s₀.mem src dst) (as ++ [.status st k])) m o
        (groupOp as) st (groupOffset as) s₀) := by
  obtain ⟨o₁, hbefore, hlast⟩ := drawTxs_snoc hdraw
  obtain ⟨m, t, v, hm, ht, hv, hrun⟩ := rotateStream_atFrame hatt hquiet hts hshare hmem hbefore hgo hle
  obtain ⟨v', hfail, rfl⟩ := hlast v hv.oracle hv.params
  refine ⟨m, hm, ?_⟩
  rw [hrun, hv.fails hatt hquiet hts _ _ ht hfail hst hchecked, andThen_stop]

/-- The fallback returns once its last group's frame is answered, or the handshake where there is no group (R245). -/
theorem rotateStream_returns (hdraw : drawTxs (as.length + 1) s₀ = (as ++ [a], o))
    (hgo : GoesOn s₀.params (as ++ [a])) (hlen : as.length = rotRows src dst) :
    ∃ m v, GatheredTo s₀.params s₀.mem m src dst (rotRows src dst) ∧
      rotateStream src dst (clearErr s₀) = .ret () (setReqIdle v) ∧ LinesAtRest dc v ∧
      Underway s₀ dc (gatherStream s₀.params s₀.mem src dst) (as ++ [a]) m o [src, dst] v := by
  obtain ⟨o₁, hbefore, hlast⟩ := drawTxs_snoc hdraw
  obtain ⟨hgoBefore, hgoLast⟩ := List.forall_mem_append.mp hgo
  obtain ⟨st, k, rfl, hst⟩ := hgoLast a (List.mem_singleton_self a)
  obtain ⟨m, t, v, hm, ht, hv, hrun⟩ := rotateStream_atFrame hatt hquiet hts hshare hmem hbefore hgoBefore hlen.le
  obtain ⟨v', hanswer, rfl⟩ := hlast v hv.oracle hv.params
  obtain ⟨w, hsend, hw, hend⟩ := hv.sent hatt hquiet hts (groupOp as) (groupOffset as) ht hanswer hst
  refine ⟨m, w, hlen ▸ hm, ?_, hend, hw⟩
  rw [hrun, hsend, andThen_ret, hlen, Nat.sub_self, forLoop_zero, andThen_ret]

end

end Sys2Proof.Machine

open Sys2Proof Sys2Proof.Machine

/-- Settles O36: the transpose is done before WRITE_DATA's body starts, which the last frame's answer lets return. -/
theorem squareTransposeLaw : Obligations.SquareTransposeLaw := by
  intro s h dc bc src dst answers o hlife hatt hbits hquiet hparams hfits hmem hshare hlen hsquare hdraw hgo
  obtain ⟨as, a, rfl, hcount⟩ := drawTxs_concat hdraw
  rw [Nat.add_comm, ← hcount] at hdraw
  obtain ⟨u, hu, hrun⟩ := rotateSquare_transposes dc
    (dataStream s.params (transposeMem s.params src dst s.mem) dst) hquiet hshare hlen hsquare
  obtain ⟨v, hbody, hend, hv⟩ := hu.writeDataBody_returns hatt hquiet (chunkBytes_pos hparams)
    (sendable_dataStream hbits hfits) .writeDataRotate .delegate ((hu.drawTxs_start _).trans hdraw) hgo hcount
  refine ⟨_, transposeMem_transposed hmem hshare hlen hsquare, ?_⟩
  rw [exec_writeDataRotate_of_active hlife, rotateBody_of_square hshare hlen, hrun, hbody, finish_ret,
    hv.returns hend]

/-- Settles O56: the transpose is done before WRITE_DATA's body starts, which the failing frame stops. -/
theorem squareStopsAtFailure : Obligations.SquareStopsAtFailure := by
  intro s h dc bc src dst as st k o hlife hatt hbits hquiet hparams hfits hmem hshare hlen hsquare hchecked hdraw hle
    hgo hst
  obtain ⟨u, hu, hrun⟩ := rotateSquare_transposes dc
    (dataStream s.params (transposeMem s.params src dst s.mem) dst) hquiet hshare hlen hsquare
  refine ⟨_, transposeMem_transposed hmem hshare hlen hsquare, ?_⟩
  rw [exec_writeDataRotate_of_active hlife, rotateBody_of_square hshare hlen, hrun,
    hu.writeDataBody_fails hatt hquiet (chunkBytes_pos hparams) (sendable_dataStream hbits hfits) .writeDataRotate
      .delegate hchecked ((hu.drawTxs_start _).trans hdraw) hgo hle hst, finish_stop]
  rfl

/-- Settles O37: group after group is gathered and sent, and the last one's answer lets the fallback return. -/
theorem fallbackGatherLaw : Obligations.FallbackGatherLaw := by
  intro s h dc bc src dst answers o hlife hatt hbits hquiet hmem hshare hlen hne hfits hdraw hgo
  obtain ⟨as, a, rfl, hcount⟩ := drawTxs_concat hdraw
  rw [Nat.add_comm, ← hcount] at hdraw
  have ⟨_, _, _, hbc⟩ := hatt
  obtain ⟨m, v, hm, hbody, hend, hv⟩ := rotateStream_returns hatt hquiet (sendable_gatherStream hbits hfits) hshare hmem
    hdraw hgo hcount
  refine ⟨m, hm, ?_⟩
  rw [exec_writeDataRotate_of_active hlife, rotateBody_of_fallback hshare hlen,
    rotateFallback_of_fits (s := clearErr s) hbc hne hfits, hbody, finish_ret, hv.returns hend]

/-- Settles O38: the groups before are gathered and sent one by one, and the next one is gathered and its frame
fails. -/
theorem fallbackStopsAtFailure : Obligations.FallbackStopsAtFailure := by
  intro s h dc bc src dst as st k o hlife hatt hbits hquiet hmem hshare hlen hne hfits hchecked hdraw hle hgo hst
  have ⟨_, _, _, hbc⟩ := hatt
  obtain ⟨m, hm, hbody⟩ := rotateStream_fails hatt hquiet (sendable_gatherStream hbits hfits) hshare hmem hchecked hdraw
    hgo hle hst
  refine ⟨m, hm, ?_⟩
  rw [exec_writeDataRotate_of_active hlife, rotateBody_of_fallback hshare hlen,
    rotateFallback_of_fits (s := clearErr s) hbc hne hfits, hbody, finish_stop]
  rfl

/-- Settles O39: each check ends the request where those before it have passed; an empty scratch passes the first. -/
theorem rotateChecks : Obligations.RotateChecks := by
  intro s bc src dst hlife hbc hseq hheld raised
  have hraised (c : Code) : raise c .writeDataRotate none none (clearErr s) = raised c :=
    raise_at_rest (s := clearErr s) hseq hheld c .writeDataRotate none none
  rw [exec_writeDataRotate_of_active hlife]
  refine ⟨fun hshare => ?_, fun hshare hlen hsize => ?_, fun hlen hempty => ?_, fun hshare hlen hlong => ?_⟩
  · rw [rotateBody_of_shared hshare, finish_stop]
  · rw [rotateBody_of_square hshare hlen, rotateSquare_of_other_size (s := clearErr s) hsize, finish_stop, hraised]
  · rw [rotateBody_of_fallback (sharesByte_of_empty src hempty) hlen, rotateFallback_of_empty hempty, finish_stop,
      hraised]
  · rw [rotateBody_of_fallback hshare hlen, rotateFallback_of_long (s := clearErr s) hbc hlong, finish_stop, hraised]

end

section
/-! SUPPORT. The mark F_BOUNDS (43_rotator.md R243, 60_exceptions.md R264): every read and write of an instruction is
within its buffer, so no single update sets it. -/

namespace Sys2Proof.Machine

variable {s u v : State} {t : Desc}

/-- The mark F_BOUNDS is in `u` only if it was in `s`. -/
def NoNewBounds (s u : State) : Prop := u.fault = some .bounds → s.fault = some .bounds

/-- Any other fault is not F_BOUNDS. -/
theorem noNewBounds_setFault {f : Fault} (hf : f ≠ .bounds) (s u : State) : NoNewBounds s (setFault f u) :=
  fun hmark => absurd (Option.some.inj hmark) hf

theorem NoNewBounds.passed (hv : TimePassed u v) (hu : NoNewBounds s u) : NoNewBounds s v := by
  rw [hv.eq]
  exact hu

theorem NoNewBounds.sent {st : Nat} (hv : FrameSent t st u v) (hu : NoNewBounds s u) : NoNewBounds s v := by
  obtain ⟨dc, -, k, o, w, -, hw, rfl⟩ := hv
  exact show NoNewBounds s w from hu.passed hw

theorem NoNewBounds.hangs (hv : FrameHangs t u v) (hu : NoNewBounds s u) : NoNewBounds s v := by
  obtain ⟨dc, -, j, ph, b, l, o, w, -, hw, rfl, -⟩ := hv
  exact show NoNewBounds s w from hu.passed hw

theorem framerKeeps_noNewBounds (s : State) : FramerKeeps (NoNewBounds s) (NoNewBounds s) where
  fault _ u hf _ _ := noNewBounds_setFault hf s u
  unwritten u _ _ := noNewBounds_setFault (by decide) s u
  refused _ _ _ hu := hu
  illFormed _ _ _ _ _ _ hu := hu
  raise _ _ _ _ _ _ hu := hu
  clearErr _ hu := hu
  setPos _ _ _ hu := hu
  setHeld _ _ hu := hu
  setReqIdle _ hu := hu
  sent _ _ _ _ hv hu := hu.sent hv
  passed _ _ hv hu := hu.passed hv
  hangs _ _ _ hv hu := hu.hangs hv
  cut _ _ v hv hu := show NoNewBounds s v from hu.hangs hv

theorem busKeeps_noNewBounds (s : State) : BusKeeps (NoNewBounds s) (NoNewBounds s) where
  fault _ u hf _ := noNewBounds_setFault hf s u
  refused _ _ hu := hu
  raise _ _ _ _ _ _ hu := hu
  clearErr _ hu := hu
  oracle _ _ hu := hu
  writeBuscfg _ _ hu := hu
  writeDevcfg _ _ hu := hu
  storeHandle g _ hu := by cases g <;> exact hu
  clearDevcfg _ hu := hu
  clearBuscfg _ hu := hu
  life _ _ _ hu := hu

end Sys2Proof.Machine

open Sys2Proof Sys2Proof.Machine

/-- Settles O40: the reads and writes of every request are within its buffers, so each single update keeps the mark
out. -/
theorem noAccessOutOfBounds : Obligations.NoAccessOutOfBounds := by
  intro i s t hexec
  have hs : NoNewBounds s s := id
  exact exec_keeps (framerKeeps_noNewBounds s) (busKeeps_noNewBounds s) (fun _ _ hu => hu) hs
    (fun _ _ _ _ _ _ _ hu => hu) (fun _ _ _ => hs) hexec

end

section
/-! SUPPORT. Steps that run no instruction: a concurrent action while a request hangs, ill-formed parameters, and the
host's write to its memory (60_exceptions.md R265, R276, R278). -/

namespace Sys2Proof.Machine

variable {s : State} {a : Arrival} {as : List Arrival}

/-- An action that comes within `n` points and that may not come while the request is in progress ends it there. -/
theorem passTime_of_concurrent {n : Nat} (hothers : s.others = a :: as) (hbusy : s.seq.req ≠ .idle)
    (hwait : a.wait < n) (hconc : Concurrent s.held a.event) :
    passTime n s = .cut a.wait (refuseArrival a.event as s) := by
  refine passTime_cut hothers hbusy hwait (hconc.imp_right ?_)
  rintro ⟨x, bs, b, hevent, hb, hshare⟩
  exact ⟨x, bs, hevent, List.any_eq_true.mpr ⟨b, hb, hshare⟩⟩

theorem inProgress_of_busy (hbusy : s.seq.req ≠ .idle) : inProgress s = true := by
  simp [inProgress, hbusy]

theorem fetchBusy_of_concurrent {e : Event} (hothers : s.others = ⟨0, e⟩ :: as) (hbusy : s.seq.req ≠ .idle)
    (hconc : Concurrent s.held e) : fetchBusy s = .pass (setRefused .concurrent s) := by
  have hcut := passTime_of_concurrent hothers hbusy Nat.one_pos hconc
  rw [passTime, if_neg hbusy] at hcut
  rw [fetchBusy, hcut, refuseArrival, ← hothers]

theorem step_of_ill_formed (hfault : s.fault = none) (hrefused : s.refused = none)
    (hparams : paramsOk s.params = false) : step s = .next (setRefused .param s) :=
  step_of_fetch_refuse (by simp [fetch, hfault, hrefused, hparams])

theorem step_of_fetch_pass {u : State} (h : fetch s = .pass u) : step s = .next u := by
  rw [step, h]

end Sys2Proof.Machine

open Sys2Proof Sys2Proof.Machine

/-- Settles O50: a hanging request is in progress, and the action comes at the step's one point of time. -/
theorem concurrentUseRefused : Obligations.ConcurrentUseRefused := by
  intro s e as hfault hrefused hparams hbusy hothers hconc
  refine step_of_fetch_pass ?_
  simp only [fetch, hfault, hrefused, hparams, inProgress_of_busy hbusy, if_true]
  exact fetchBusy_of_concurrent hothers hbusy hconc

/-- Settles O51: each of the three causes fails one check of the parameters. -/
theorem illFormedParametersRefused : Obligations.IllFormedParametersRefused := by
  intro s hfault hrefused hcause
  refine step_of_ill_formed hfault hrefused ?_
  rcases hcause with hzero | hlong | hstatus
  · simp [paramsOk, hzero]
  · simp [paramsOk, Nat.not_le.mpr hlong]
  · simp [paramsOk, hstatus]

/-- Settles O52: a machine that is ready looks at the host's next action alone. -/
theorem idleAndHostWrites : Obligations.IdleAndHostWrites := by
  refine fun s hready => ⟨fun hinbox => ?_, fun a bs es hinbox => ?_⟩
  · refine step_of_fetch_pass ((fetch_of_readyToTake hready).trans ?_)
    rw [fetchIdle, hinbox]
  · refine step_of_fetch_pass ((fetch_of_readyToTake hready).trans ?_)
    rw [fetchIdle, hinbox]
    rfl

end

section
/-! SUPPORT. A framer request beside the same request without other threads (60_exceptions.md R276, 20_memory.md R61):
call by call the second does what the first does, unless an action is refused; only memory differs, at the bytes the
other threads have written. -/

namespace Sys2Proof.Machine

variable {α β : Type} {s₀ u v : State} {bufs : List Buf} {m : Memory}

/-! ### The two states -/

/-- `u` without other threads, its memory `m`. -/
def withoutOthers (m : Memory) (u : State) : State := { u with others := [], mem := m }

/-- Of the actions `pending`, those in `came` have come, none of which touches the buffers `bufs`, and `others` are
still to come; without them the memory `mem` would be `m`. -/
structure Arrived (bufs : List Buf) (pending : List Arrival) (came : List Event) (others : List Arrival)
    (mem m : Memory) : Prop where
  order : pending.map Arrival.event = came ++ others.map Arrival.event
  apart : ∀ e ∈ came, ∃ x bs, e = .hostWrite x bs ∧ ∀ b ∈ bufs, sharesByte ⟨x, bs.length⟩ b = false
  outside : ∀ a, (∀ x bs, .hostWrite x bs ∈ came → a < x ∨ x + bs.length ≤ a) → memByte m a = memByte mem a
  wf : mem.wf = true
  wfWithout : m.wf = true

/-- The request on `bufs` that started in `s₀` has come to `u`, and without other threads to `withoutOthers m u`. -/
def Twin (s₀ : State) (bufs : List Buf) (u : State) (m : Memory) : Prop :=
  ∃ came, Arrived bufs s₀.others came u.others u.mem m

/-- Besides, the request holds its buffers. -/
def HeldTwin (s₀ : State) (bufs : List Buf) (u : State) (m : Memory) : Prop := Twin s₀ bufs u m ∧ u.held = bufs

theorem Twin.start (hs : s₀.mem.wf = true) : Twin s₀ bufs s₀ s₀.mem :=
  ⟨[], rfl, fun _ he => absurd he List.not_mem_nil, fun _ _ => rfl, hs, hs⟩

theorem HeldTwin.congr (h : HeldTwin s₀ bufs u m) (hothers : v.others = u.others) (hmem : v.mem = u.mem)
    (hheld : v.held = u.held) : HeldTwin s₀ bufs v m := by
  unfold HeldTwin Twin
  rw [hothers, hmem, hheld]
  exact h

/-- What comes as time passes touches no buffer held, and changes memory alone. -/
theorem HeldTwin.passed (h : HeldTwin s₀ bufs u m) (hv : TimePassed u v) :
    HeldTwin s₀ bufs v m ∧ withoutOthers m v = withoutOthers m u := by
  obtain ⟨⟨came, hcame⟩, hheld⟩ := h
  obtain ⟨pre, hpre⟩ := hv
  refine ⟨⟨⟨came ++ pre, ?_, ?_, ?_, hpre.wf hcame.wf, hcame.wfWithout⟩, ?_⟩, ?_⟩
  · rw [hcame.order, hpre.order, List.append_assoc]
  · intro e he
    rcases List.mem_append.mp he with he | he
    · exact hcame.apart e he
    · obtain ⟨x, bs, rfl, huntouched⟩ := hpre.writes e he
      refine ⟨x, bs, rfl, fun b hb => ?_⟩
      simpa using List.any_eq_false.mp huntouched b (hheld ▸ hb)
  · intro a ha
    rw [hcame.outside a fun x bs he => ha x bs (List.mem_append_left _ he),
      hpre.outside a fun x bs he => ha x bs (List.mem_append_right _ he)]
  · rw [hpre.frame]
    exact hheld
  · rw [hpre.frame]
    rfl

/-- The buffers hold the same in both. -/
theorem HeldTwin.memBytes_eq (h : HeldTwin s₀ bufs u m) {b : Buf} (hb : b ∈ bufs) {off n : Nat}
    (hn : off + n ≤ b.len) : memBytes m (b.base + off) n = memBytes u.mem (b.base + off) n := by
  obtain ⟨⟨came, hcame⟩, -⟩ := h
  refine memBytes_congr fun i hi => hcame.outside _ fun x bs he => ?_
  obtain ⟨x', bs', heq, hapart⟩ := hcame.apart _ he
  cases heq
  by_contra hin
  have hout := outside_of_apart (hapart b hb) (a := b.base + off + i) (show x ≤ _ by omega)
    (show _ < x + bs.length by omega)
  omega

/-- The same store in both. -/
theorem HeldTwin.store (h : HeldTwin s₀ bufs u m) (x : Nat) (bytes : List Byte) :
    HeldTwin s₀ bufs { u with mem := memSetBytes u.mem x bytes } (memSetBytes m x bytes) := by
  obtain ⟨⟨came, hcame⟩, hheld⟩ := h
  exact ⟨⟨came, { hcame with
    outside := fun a ha => memByte_memSetBytes_congr hcame.wfWithout hcame.wf x bytes (hcame.outside a ha)
    wf := memSetBytes_wf _ _ hcame.wf
    wfWithout := memSetBytes_wf _ _ hcame.wfWithout }⟩, hheld⟩

/-! ### Two calls -/

/-- `c` is cut by another thread, or `c'`, which is without them, ends as `c` does: it stops in its twin, or returns the
same and what is left agrees as `Q` says. -/
def Mirrors (s₀ : State) (bufs : List Buf) (Q : State → Memory → Prop) (c c' : Call α) : Prop :=
  Ends (fun u => u.refused = some .concurrent ∨ ∃ m, c' = .stop (withoutOthers m u) ∧ Twin s₀ bufs u m)
    (fun a u => ∃ m, c' = .ret a (withoutOthers m u) ∧ Q u m) c

variable {Q R : State → Memory → Prop} {c c' d d' : Call α}

theorem mirrors_ret (a : α) (h : Q u m) : Mirrors s₀ bufs Q (.ret a u) (.ret a (withoutOthers m u)) := ⟨m, rfl, h⟩

theorem mirrors_stop (h : Twin s₀ bufs u m) :
    Mirrors s₀ bufs Q (.stop u : Call α) (.stop (withoutOthers m u)) := .inr ⟨m, rfl, h⟩

theorem Mirrors.andThen {f : α → State → Call β} (h : Mirrors s₀ bufs Q c c')
    (hf : ∀ a u m, Q u m → Mirrors s₀ bufs R (f a u) (f a (withoutOthers m u))) :
    Mirrors s₀ bufs R (andThen c f) (andThen c' f) := by
  refine Ends.andThen' h ?_ ?_
  · rintro u (hcut | ⟨m, rfl, hm⟩)
    · exact .inl hcut
    · exact .inr ⟨m, rfl, hm⟩
  · rintro a u ⟨m, rfl, hm⟩
    exact hf a u m hm

theorem Mirrors.ite {p : Prop} [Decidable p] (h : p → Mirrors s₀ bufs Q c c') (h' : ¬ p → Mirrors s₀ bufs Q d d') :
    Mirrors s₀ bufs Q (if p then c else d) (if p then c' else d') := by
  by_cases hp : p
  · rw [if_pos hp, if_pos hp]
    exact h hp
  · rw [if_neg hp, if_neg hp]
    exact h' hp

theorem Mirrors.forLoop {body : Nat → State → Call Unit}
    (hbody : ∀ i u m, Q u m → Mirrors s₀ bufs Q (body i u) (body i (withoutOthers m u))) (n : Nat) :
    ∀ (i : Nat) (u : State) (m : Memory), Q u m →
      Mirrors s₀ bufs Q (forLoop body n i u) (forLoop body n i (withoutOthers m u)) := by
  induction n with
  | zero => exact fun _ _ _ h => mirrors_ret () h
  | succ n ih => exact fun i u m h => (hbody i u m h).andThen fun _ v m hv => ih (i + 1) v m hv

/-- The next state of a request whose action of another thread, if any, was not refused. -/
theorem Mirrors.finish {r : α → Ret} {t : State} (h : Mirrors s₀ bufs (Twin s₀ bufs) c c')
    (ht : finish r c = .next t) (hcut : t.refused ≠ some .concurrent) :
    ∃ m, Machine.finish r c' = .next (withoutOthers m t) ∧ Twin s₀ bufs t m := by
  rcases finish_ends h ht with (hconc | ⟨m, rfl, hm⟩) | ⟨a, u, ⟨m, rfl, hm⟩, rfl⟩
  · exact absurd hconc hcut
  · exact ⟨m, rfl, hm⟩
  · exact ⟨m, rfl, hm⟩

theorem mirrors_readField (f : Option α) (ht : Twin s₀ bufs u m) (h : Q u m) :
    Mirrors s₀ bufs Q (readField f u) (readField f (withoutOthers m u)) := by
  cases f with
  | none => exact mirrors_stop (u := setFault .unwritten u) ht
  | some a => exact mirrors_ret a h

theorem mirrors_requireActive (h : Twin s₀ bufs u m) :
    Mirrors s₀ bufs (Twin s₀ bufs) (requireActive u) (requireActive (withoutOthers m u)) :=
  Mirrors.ite (fun _ => mirrors_ret () h) fun _ => mirrors_stop (u := setFault .lifecycle u) h

theorem HeldTwin.passPoint (h : HeldTwin s₀ bufs u m) :
    Mirrors s₀ bufs (HeldTwin s₀ bufs) (passPoint u) (passPoint (withoutOthers m u)) := by
  rw [passPoint_quiet (s := withoutOthers m u) (.inl rfl)]
  refine (passPoint_ends u).imp ?_ ?_
  · rintro r ⟨v, -, rfl⟩
    exact .inl rfl
  · intro _ v hv
    obtain ⟨hm, hsame⟩ := h.passed hv
    exact ⟨m, by rw [hsame], hm⟩

theorem HeldTwin.memRead {b : Buf} (hb : b ∈ bufs) (off n : Nat) (h : HeldTwin s₀ bufs u m) :
    Mirrors s₀ bufs (HeldTwin s₀ bufs) (memRead b off n u) (memRead b off n (withoutOthers m u)) := by
  refine Mirrors.ite (fun hin => ⟨m, ?_, h⟩) fun _ => mirrors_stop (u := setFault .bounds u) h.1
  exact congrArg (Call.ret · _) (h.memBytes_eq hb hin)

theorem HeldTwin.memWrite (b : Buf) (off : Nat) (bytes : List Byte) (h : HeldTwin s₀ bufs u m) :
    Mirrors s₀ bufs (HeldTwin s₀ bufs) (memWrite b off bytes u) (memWrite b off bytes (withoutOthers m u)) :=
  Mirrors.ite (fun _ => mirrors_ret () (h.store _ _)) fun _ => mirrors_stop (u := setFault .bounds u) h.1

/-! ### One frame -/

theorem driveBeats_withoutOthers (M : Multiline) (dc : DevCfg) (t : Desc) (bs : List Beat) (m : Memory) (u : State) :
    driveBeats M dc t bs (withoutOthers m u) = withoutOthers m (driveBeats M dc t bs u) := by
  have hfold : bs.foldl (driveBeat M dc t) (withoutOthers m u) = withoutOthers m (bs.foldl (driveBeat M dc t) u) := by
    induction bs generalizing u with
    | nil => rfl
    | cons b bs ih => exact ih (driveBeat M dc t u b)
  rw [driveBeats, hfold]
  rfl

theorem HeldTwin.driveBeats (M : Multiline) (dc : DevCfg) (t : Desc) (bs : List Beat) (h : HeldTwin s₀ bufs u m) :
    HeldTwin s₀ bufs (driveBeats M dc t bs u) m := by
  obtain ⟨ph, b, l, hdrive, -⟩ := driveBeats_eq M dc t bs u
  exact h.congr (by rw [hdrive]) (by rw [hdrive]) (by rw [hdrive])

/-- What becomes of the frame where time passes in the one and no other thread is in the other. -/
theorem HeldTwin.settleFrame (M : Multiline) (dc : DevCfg) (t : Desc) (beats : List Beat) (a : TxAnswer) (n : Nat)
    (h : HeldTwin s₀ bufs u m) :
    Mirrors s₀ bufs (HeldTwin s₀ bufs) (settleFrame M dc t beats a (passTime n u))
      (settleFrame M dc t beats a (passTime n (withoutOthers m u))) := by
  rw [passTime_quiet (s := withoutOthers m u) (.inl rfl)]
  have hpass := passTime_is n u
  cases hp : passTime n u with
  | cut k r =>
    rw [hp] at hpass
    obtain ⟨-, v, -, rfl⟩ := hpass
    obtain ⟨ph, b, l, hdrive, -⟩ := driveBeats_eq M dc t (beats.take k) (setRefused .concurrent v)
    exact .inl (by rw [hdrive]; rfl)
  | through v =>
    rw [hp] at hpass
    obtain ⟨hv, hsame⟩ := h.passed hpass
    rw [← hsame]
    unfold Machine.settleFrame
    cases a with
    | hang j =>
      simp only [driveBeats_withoutOthers]
      exact mirrors_stop (u := setRet .nothing (Machine.driveBeats M dc t _ v)) (hv.driveBeats M dc t _).1
    | status st k =>
      simp only [driveBeats_withoutOthers]
      exact mirrors_ret (u := endFrame dc t st _ (Machine.driveBeats M dc t _ v)) st (hv.driveBeats M dc t _)

theorem HeldTwin.sendFrame (dc : DevCfg) (t : Desc) (h : HeldTwin s₀ bufs u m) :
    Mirrors s₀ bufs (HeldTwin s₀ bufs) (sendFrame dc t u) (sendFrame dc t (withoutOthers m u)) := by
  cases hdraw : drawTx (startFrame dc t u) with
  | mk a v =>
    have hv : v = { startFrame dc t u with oracle := v.oracle } := drawTx_eq hdraw
    have hdraw' : drawTx (startFrame dc t (withoutOthers m u)) = (a, withoutOthers m v) := by
      rw [drawTx_congr hdraw (u := startFrame dc t (withoutOthers m u)) rfl rfl, hv]
      rfl
    unfold Machine.sendFrame
    rw [hdraw, hdraw']
    exact HeldTwin.settleFrame _ dc t _ a _ (h.congr (by rw [hv]; rfl) (by rw [hv]; rfl) (by rw [hv]; rfl))

theorem HeldTwin.checkedSend (t : Desc) (h : HeldTwin s₀ bufs u m) :
    Mirrors s₀ bufs (HeldTwin s₀ bufs) (checkedSend t u) (checkedSend t (withoutOthers m u)) := by
  refine (mirrors_readField u.devcfg h.1 h).andThen fun dc v m hv => ?_
  refine Mirrors.ite (fun _ => ?_) fun _ => mirrors_stop (u := setRefused .descriptor v) hv.1
  refine (mirrors_readField v.buscfg hv.1 hv).andThen fun bc w m hw => ?_
  refine Mirrors.ite (fun _ => ?_) fun _ => hw.sendFrame dc t
  exact hw.passPoint.andThen fun _ x m hx => mirrors_ret x.params.stTooLong hx

theorem HeldTwin.attachedHandle (h : HeldTwin s₀ bufs u m) :
    Mirrors s₀ bufs (HeldTwin s₀ bufs) (attachedHandle u) (attachedHandle (withoutOthers m u)) :=
  Mirrors.ite (fun _ => mirrors_readField u.devHandle h.1 h) fun _ => mirrors_stop (u := setFault .lifecycle u) h.1

theorem HeldTwin.transmit (t : Desc) (h : HeldTwin s₀ bufs u m) :
    Mirrors s₀ bufs (HeldTwin s₀ bufs) (transmit t u) (transmit t (withoutOthers m u)) := by
  refine h.attachedHandle.andThen fun g v m hv => hv.attachedHandle.andThen fun g' w m hw => ?_
  exact Mirrors.ite (fun _ => hw.checkedSend t) fun _ => mirrors_stop (u := setFault .lifecycle w) hw.1

theorem HeldTwin.framedSend (op : OpName) (off : Option Nat) (t : Desc) (h : HeldTwin s₀ bufs u m) :
    Mirrors s₀ bufs (HeldTwin s₀ bufs) (framedSend op off t u) (framedSend op off t (withoutOthers m u)) := by
  refine (h.transmit t).andThen fun st v m hv => ?_
  exact Mirrors.ite (fun _ => mirrors_stop (u := raise .tx op (some st) off v) hv.1) fun _ => mirrors_ret () hv

/-! ### The requests -/

theorem Twin.writeCmdBody (c : BitVec 8) (b : Buf) (h : Twin s₀ [b] u m) :
    Mirrors s₀ [b] (Twin s₀ [b]) (writeCmdBody c b u) (writeCmdBody c b (withoutOthers m u)) := by
  refine (mirrors_readField (Q := Twin s₀ [b]) (u := clearErr u) u.buscfg h h).andThen fun bc v m hv => ?_
  refine Mirrors.ite (fun _ => mirrors_stop (u := raise .tooLong .writeCommand none none v) hv) fun _ => ?_
  have hheld : HeldTwin s₀ [b] (setPos .writeCmd .frame (setHeld [b] v)) m := ⟨hv, rfl⟩
  refine (hheld.memRead (List.mem_singleton_self b) 0 b.len).andThen fun tx w m hw => ?_
  exact (hw.framedSend .writeCommand (some 0) (cmdFrame w.params c tx)).andThen fun _ x m hx =>
    mirrors_ret (u := setReqIdle x) () hx.1

theorem HeldTwin.setPos (op : SeqOp) (pos : Pos) (h : HeldTwin s₀ bufs u m) :
    HeldTwin s₀ bufs (setPos op pos u) m := h

theorem HeldTwin.chunkLoop (op : SeqOp) (at' : Pos → Pos) {data : Buf} (hb : data ∈ bufs) :
    ∀ (n off : Nat) (u : State) (m : Memory), HeldTwin s₀ bufs u m →
      Mirrors s₀ bufs (HeldTwin s₀ bufs) (chunkLoop op at' data n off u)
        (chunkLoop op at' data n off (withoutOthers m u))
  | 0, off, u, m, h =>
    Mirrors.ite (fun _ => mirrors_stop (u := setRefused .param u) h.1) fun _ => mirrors_ret () h
  | n + 1, off, u, m, h => by
    refine Mirrors.ite (fun _ => ?_) fun _ => mirrors_ret () h
    have hpos := h.setPos op (at' (.chunk off))
    refine (hpos.memRead hb off (chunkLen u.params data.len off)).andThen fun tx v m hv => ?_
    refine (hv.framedSend .writeDataChunk (some off) (dataFrame tx)).andThen fun _ w m hw => ?_
    exact HeldTwin.chunkLoop op at' hb n (off + chunkLen w.params data.len off) w m hw

theorem HeldTwin.writeDataBody (op : SeqOp) (at' : Pos → Pos) {data : Buf} (hb : data ∈ bufs)
    (h : HeldTwin s₀ bufs u m) :
    Mirrors s₀ bufs (Twin s₀ bufs) (writeDataBody op at' data u) (writeDataBody op at' data (withoutOthers m u)) := by
  refine ((h.setPos op (at' .hs)).framedSend .writeDataHandshake none (hsFrame u.params)).andThen fun _ v m hv => ?_
  refine (HeldTwin.chunkLoop op at' hb data.len 0 v m hv).andThen fun _ w m hw => ?_
  exact mirrors_ret (u := setReqIdle w) () hw.1

theorem HeldTwin.copyElem {src : Buf} (hb : src ∈ bufs) (e : Nat) (dst : Buf) (e' : Nat) (h : HeldTwin s₀ bufs u m) :
    Mirrors s₀ bufs (HeldTwin s₀ bufs) (copyElem src e dst e' u) (copyElem src e dst e' (withoutOthers m u)) :=
  h.passPoint.andThen fun _ v _ hv =>
    (hv.memRead hb (v.params.pixelBytes * e) v.params.pixelBytes).andThen fun bytes w _ hw =>
      hw.memWrite dst (w.params.pixelBytes * e') bytes

theorem HeldTwin.transpose {src : Buf} (hb : src ∈ bufs) (dst : Buf) (h : HeldTwin s₀ bufs u m) :
    Mirrors s₀ bufs (HeldTwin s₀ bufs) (transpose src dst u) (transpose src dst (withoutOthers m u)) := by
  refine Mirrors.forLoop (fun i v m hv => ?_) u.params.rotW 0 u m h
  refine Mirrors.forLoop (fun j w m hw => ?_) v.params.rotH 0 v m hv
  exact hw.copyElem hb (j * w.params.rotW + i) dst (i * w.params.rotH + j)

theorem HeldTwin.rotateGroup {src dst : Buf} (hsrc : src ∈ bufs) (hdst : dst ∈ bufs) (rows r : Nat)
    (h : HeldTwin s₀ bufs u m) :
    Mirrors s₀ bufs (HeldTwin s₀ bufs) (rotateGroup src dst rows r u)
      (rotateGroup src dst rows r (withoutOthers m u)) := by
  have hgather : Mirrors s₀ bufs (HeldTwin s₀ bufs)
      (gatherGroup src dst rows r (Machine.setPos .writeDataRotate (.group r) u))
      (gatherGroup src dst rows r (Machine.setPos .writeDataRotate (.group r) (withoutOthers m u))) :=
    Mirrors.forLoop (fun k v _ hv => hv.copyElem hsrc (r + k * rows) dst k) (rotCols u.params dst) 0 _ m
      (h.setPos .writeDataRotate (.group r))
  refine hgather.andThen fun _ v m hv => (hv.memRead hdst 0 dst.len).andThen fun tx w m hw => ?_
  exact hw.framedSend .rotateChunk (some r) (dataFrame tx)

theorem Twin.rotateSquare (src dst : Buf) (h : Twin s₀ [src, dst] u m) :
    Mirrors s₀ [src, dst] (Twin s₀ [src, dst]) (rotateSquare src dst u)
      (rotateSquare src dst (withoutOthers m u)) := by
  refine Mirrors.ite (fun _ => mirrors_stop (u := raise .geometry .writeDataRotate none none u) h) fun _ => ?_
  have hheld : HeldTwin s₀ [src, dst] (setPos .writeDataRotate .transpose (setHeld [src, dst] u)) m := ⟨h, rfl⟩
  exact (hheld.transpose (by simp) dst).andThen fun _ v m hv =>
    hv.writeDataBody .writeDataRotate .delegate (by simp)

theorem Twin.rotateStream (src dst : Buf) (h : Twin s₀ [src, dst] u m) :
    Mirrors s₀ [src, dst] (Twin s₀ [src, dst]) (rotateStream src dst u)
      (rotateStream src dst (withoutOthers m u)) := by
  have hheld : HeldTwin s₀ [src, dst] (setPos .writeDataRotate .hs (setHeld [src, dst] u)) m := ⟨h, rfl⟩
  refine (hheld.framedSend .rotateHandshake none (hsFrame u.params)).andThen fun _ v m hv => ?_
  refine (Mirrors.forLoop (fun r w m hw => hw.rotateGroup (by simp) (by simp) (rotRows src dst) r)
    (rotRows src dst) 0 v m hv).andThen fun _ w m hw => ?_
  exact mirrors_ret (u := setReqIdle w) () hw.1

theorem Twin.rotateFallback (src dst : Buf) (h : Twin s₀ [src, dst] u m) :
    Mirrors s₀ [src, dst] (Twin s₀ [src, dst]) (rotateFallback src dst u)
      (rotateFallback src dst (withoutOthers m u)) := by
  refine Mirrors.ite (fun _ => mirrors_stop (u := raise .geometry .writeDataRotate none none u) h) fun _ => ?_
  refine (mirrors_readField (Q := Twin s₀ [src, dst]) u.buscfg h h).andThen fun bc v m hv => ?_
  exact Mirrors.ite (fun _ => mirrors_stop (u := raise .tooLong .writeDataRotate none none v) hv) fun _ =>
    hv.rotateStream src dst

theorem Twin.rotateBody (src dst : Buf) (h : Twin s₀ [src, dst] u m) :
    Mirrors s₀ [src, dst] (Twin s₀ [src, dst]) (rotateBody src dst u) (rotateBody src dst (withoutOthers m u)) := by
  refine Mirrors.ite (fun _ => mirrors_stop (u := setFault .aliased u) h) fun _ => ?_
  exact Mirrors.ite (fun _ => Twin.rotateSquare (u := clearErr u) src dst h) fun _ =>
    Twin.rotateFallback (u := clearErr u) src dst h

/-- A framer request in which no action was refused does without the other threads what it does with them. -/
theorem exec_withoutOthers {i : Instr} {s t : State} (hi : Instr.Framer i) (hwf : s.mem.wf = true)
    (hexec : exec i s = .next t) (hcut : t.refused ≠ some .concurrent) :
    ∃ m, exec i (withoutOthers s.mem s) = .next (withoutOthers m t) ∧ Twin s (Instr.buffers i) t m := by
  match i, hi with
  | .writeCmd c params, _ =>
    exact Mirrors.finish ((mirrors_requireActive (Twin.start hwf)).andThen fun _ _ _ hu =>
      hu.writeCmdBody c (paramBuf params)) hexec hcut
  | .writeData data, _ =>
    exact Mirrors.finish ((mirrors_requireActive (Twin.start hwf)).andThen fun _ u _ hu =>
      HeldTwin.writeDataBody (u := setHeld [data] (clearErr u)) .writeData id (List.mem_singleton_self data)
        ⟨hu, rfl⟩) hexec hcut
  | .writeDataRotate src dst, _ =>
    exact Mirrors.finish ((mirrors_requireActive (Twin.start hwf)).andThen fun _ _ _ hu =>
      hu.rotateBody src dst) hexec hcut

end Sys2Proof.Machine

open Sys2Proof Sys2Proof.Machine

/-- Settles O60: the request and its twin without other threads go the same way, call by call. -/
theorem otherThreadsChangeMemoryAlone : Obligations.OtherThreadsChangeMemoryAlone := by
  intro i s t hi hwf hexec hcut
  obtain ⟨m, hwithout, came, hcame⟩ := exec_withoutOthers hi hwf hexec hcut
  exact ⟨came, m, hcame.order, hcame.apart, hcame.outside, hwithout⟩

end

section
/-! SUPPORT. How a request that returns a code ends (60_exceptions.md R262, R263, R267): by a mark or a hang, in which
it does not return, by raising an error, or in OK. -/

namespace Sys2Proof.Machine

variable {s u v t : State}

/-- The request that started in `s` has come to `u`: S.err was cleared, no mark is new, the lifecycle is as it was and
no frame of the request is in flight. -/
structure InRequest (s u : State) : Prop where
  err : u.err = none
  life : u.life = s.life
  fault : u.fault = s.fault
  refused : u.refused = s.refused
  queue : s.queue = [] → u.queue = []

/-- The request that started in `s` has raised an error. -/
def RaisedIn (s t : State) : Prop :=
  ∃ u c op st off, InRequest s u ∧ c ≠ .ok ∧ t = raise c op st off u

/-- The request that started in `s` has ended in `t` before its last step: it has not returned, or has raised an
error. -/
def EndedEarly (s t : State) : Prop := t.ret = .nothing ∨ RaisedIn s t

/-- The request has returned OK. -/
def ReturnedOk (t : State) : Prop := t.err = none ∧ t.ret = .code .ok

theorem InRequest.start (s : State) : InRequest s (clearErr s) := ⟨rfl, rfl, rfl, rfl, id⟩

theorem InRequest.raise {c : Code} (op : OpName) (st off : Option Nat) (hc : c ≠ .ok) (h : InRequest s u) :
    RaisedIn s (raise c op st off u) := ⟨u, c, op, st, off, h, hc, rfl⟩

/-! ### The framer -/

theorem InRequest.passed (hv : TimePassed u v) (h : InRequest s u) : InRequest s v := by
  rw [hv.eq]
  exact { h with }

theorem InRequest.sent {d : Desc} {st : Nat} (hv : FrameSent d st u v) (h : InRequest s u) : InRequest s v := by
  obtain ⟨dc, -, k, o, w, -, hw, rfl⟩ := hv
  exact { h.passed hw with queue := fun _ => rfl }

/-- A request whose frame hangs has not returned. -/
theorem FrameHangs.ret {d : Desc} (hv : FrameHangs d u v) : v.ret = .nothing := by
  obtain ⟨dc, -, j, ph, b, l, o, w, -, -, rfl, -⟩ := hv
  rfl

theorem framerKeeps_inRequest (s : State) : FramerKeeps (InRequest s) (EndedEarly s) where
  fault _ _ _ _ _ := .inl rfl
  unwritten _ _ _ := .inl rfl
  refused _ _ _ _ := .inl rfl
  illFormed _ _ _ _ _ _ _ := .inl rfl
  raise _ op st off _ hc h := .inr (h.raise op st off hc)
  clearErr _ h := { h with err := rfl }
  setPos _ _ _ h := { h with }
  setHeld _ _ h := { h with }
  setReqIdle _ h := { h with }
  sent _ _ _ _ hv h := h.sent hv
  passed _ _ hv h := h.passed hv
  hangs _ _ _ hv _ := .inl hv.ret
  cut _ _ _ _ _ := .inl rfl

/-! ### INIT and DEINIT -/

/-- Everything the primitives of INIT can do: fault, raise E_BUS_IO, or create the handle. -/
theorem initBus_ends (busId : Nat) (a : InitArgs) (h : InRequest s u) :
    Ends (fun t => ∃ v, InRequest s v ∧ (t = setFault .lifecycle v ∨ ∃ op st, t = raise .busIo op st none v))
      (fun _ t => ∃ v, InRequest s v ∧ t = { v with cfg := t.cfg, life := .active }) (initBus busId a u) := by
  refine (busInitialize_ends _ u).andThen' (fun t ht => ⟨u, h, .inl ht.2⟩) ?_
  rintro st v ⟨-, w, hdraw, rfl⟩
  have hw : InRequest s w := by rw [drawBusInit_eq hdraw]; exact { h with }
  split
  · have hready : InRequest s (writeBuscfg (initBusReq u.params a.sck a.d) w) := { hw with }
    refine (deviceAttach_ends _ _).andThen' (fun t ht => ⟨_, hready, .inl ht.2⟩) ?_
    rintro r x ⟨-, -, st, g, y, hdraw, ⟨-, rfl, rfl⟩ | ⟨hst, rfl, rfl⟩⟩
    · rw [drawAttach_eq hdraw]
      exact ⟨storeHandle (some g) (writeDevcfg _ { writeBuscfg _ w with oracle := y.oracle }), { hready with }, rfl⟩
    · have hfailed : InRequest s x := by rw [drawAttach_eq hdraw]; exact { hready with }
      rw [if_neg hst]
      refine Ends.andThen (Q := fun _ z => InRequest s z) ?_ fun _ z hz => ⟨z, hz, .inr ⟨_, _, rfl⟩⟩
      split
      · refine (busFree_ends x).imp (fun t ht => ⟨x, hfailed, .inl ht.2⟩) ?_
        rintro - z ⟨-, -, st, z, hdraw, rfl⟩
        rw [drawBusFree_eq hdraw]
        exact { hfailed with }
      · exact hfailed
  · exact ⟨w, hw, .inr ⟨_, _, rfl⟩⟩

/-- Everything INIT can do outside ACTIVE. -/
theorem execInit_ends {busId sck baud : Nat} {pins : List Nat} {pol ph : Option Nat} (hlife : s.life ≠ .active)
    (h : execInit busId sck pins baud pol ph s = .next t) :
    RaisedIn s t ∨ ∃ v, InRequest s v ∧ (t = setFault .lifecycle v ∨ t = setRefused .param v ∨
      t = setRet (.code .ok) { v with cfg := t.cfg, life := .active }) := by
  have hstart := InRequest.start s
  have hends : Ends (fun t => RaisedIn s t ∨ ∃ v, InRequest s v ∧ (t = setFault .lifecycle v ∨ t = setRefused .param v))
      (fun _ t => ∃ v, InRequest s v ∧ t = { v with cfg := t.cfg, life := .active })
      (andThen (initCheck sck pins baud pol ph (clearErr s)) fun a s => initBus busId a s) := by
    refine (initCheck_ends sck pins baud pol ph (clearErr s)).andThen' ?_ ?_
    · rintro u (⟨c, hc, rfl⟩ | rfl)
      · exact .inl (hstart.raise _ _ _ hc)
      · exact .inr ⟨_, hstart, .inr rfl⟩
    · rintro a u ⟨rfl, -⟩
      refine (initBus_ends busId a hstart).imp ?_ fun _ _ h => h
      rintro u ⟨v, hv, rfl | ⟨op, st, rfl⟩⟩
      · exact .inr ⟨v, hv, .inl rfl⟩
      · exact .inl (hv.raise _ _ _ (by decide))
  rw [execInit, if_neg hlife] at h
  rcases finish_ends hends h with (hraised | ⟨v, hv, rfl | rfl⟩) | ⟨-, w, ⟨v, hv, hw⟩, rfl⟩
  · exact .inl hraised
  · exact .inr ⟨v, hv, .inl rfl⟩
  · exact .inr ⟨v, hv, .inr (.inl rfl)⟩
  · exact .inr ⟨v, hv, .inr (.inr (congrArg (setRet _) hw))⟩

/-- DEINIT raises no error: it does not return, or has detached, freed and returned OK. -/
theorem execDeinit_ends (h : execDeinit s = .next t) : t.ret = .nothing ∨ ReturnedOk t := by
  refine finish_keeps (P := fun u => u.err = none) (E := fun t => t.ret = .nothing ∨ ReturnedOk t) ?_
    (fun _ u hu => .inr ⟨hu, rfl⟩) h
  have hfault (f : Fault) (u : State) : (setFault f u).ret = .nothing ∨ ReturnedOk (setFault f u) := .inl rfl
  refine (requireActive_ends s).andThen' (fun t ht => ht.2 ▸ hfault _ s) ?_
  rintro - u ⟨-, rfl⟩
  refine (attachedHandle_ends (clearErr u)).andThen' ?_ ?_
  · rintro t (⟨-, rfl⟩ | ⟨-, -, rfl⟩)
    · exact hfault _ _
    · exact hfault _ _
  rintro g v ⟨-, -, rfl⟩
  refine (deviceDetach_ends g (clearErr u)).andThen' ?_ ?_
  · rintro t (⟨rfl, -⟩ | ⟨-, -, rfl⟩)
    · exact hfault _ _
    · exact hfault _ _
  rintro - w ⟨-, -, st, w, hdetach, rfl⟩
  refine (readField_ends _ (clearDevcfg w)).andThen' (fun t ht => ht.2 ▸ hfault _ _) ?_
  rintro c x ⟨-, rfl⟩
  refine (busFree_ends (clearDevcfg w)).andThen' (fun t ht => ht.2 ▸ hfault _ _) ?_
  rintro - y ⟨-, -, st, y, hfree, rfl⟩
  show y.err = none
  rw [drawBusFree_eq hfree, drawDetach_eq hdetach]
  rfl

/-! ### The requests -/

theorem rotateBody_clearErr {src dst : Buf} (hshare : sharesByte src dst = false) :
    rotateBody src dst u = rotateBody src dst (clearErr u) := by
  rw [rotateBody, rotateBody, hshare]
  rfl

theorem finish_endedEarly {c : Call Unit} (hc : Ends (EndedEarly s) (fun _ u => InRequest s u) c)
    (h : finish (fun _ => .code .ok) c = .next t) : EndedEarly s t ∨ ReturnedOk t :=
  finish_keeps (E := fun t => EndedEarly s t ∨ ReturnedOk t) (hc.imp (fun _ => .inl) fun _ _ h => h)
    (fun _ _ hu => .inr ⟨hu.err, rfl⟩) h

/-- Everything a request that returns a code can do. -/
theorem exec_endedEarly_or_ok {i : Instr} (hi : Instr.ReturnsCode i) (h : exec i s = .next t) :
    EndedEarly s t ∨ ReturnedOk t := by
  have k := framerKeeps_inRequest s
  have hstart := InRequest.start s
  have hwrong (hfault : exec i s = .next (setFault .lifecycle s)) : EndedEarly s t ∨ ReturnedOk t := by
    obtain rfl := Host.Outcome.next.inj (hfault.symm.trans h)
    exact .inl (.inl rfl)
  obtain ⟨hinactive, hactive, -⟩ := wrongLifecycleFaults s
  by_cases hlife : s.life = .active
  · match i, hi with
    | .init busId sck pins baud pol ph, _ => exact hwrong (hactive hlife busId sck pins baud pol ph)
    | .deinit, _ => exact (execDeinit_ends h).imp_left .inl
    | .writeCmd c params, _ =>
      rw [exec_writeCmd_of_active hlife] at h
      exact finish_endedEarly (k.writeCmdBody c (paramBuf params) hstart) h
    | .writeData data, _ =>
      rw [exec_writeData_of_active hlife] at h
      exact finish_endedEarly (k.writeDataBody .writeData id data (k.setHeld [data] _ hstart)) h
    | .writeDataRotate src dst, _ =>
      rw [exec_writeDataRotate_of_active hlife] at h
      refine finish_endedEarly ?_ h
      cases hshare : sharesByte src dst with
      | true => rw [rotateBody_of_shared hshare]; exact .inl rfl
      | false =>
        rw [rotateBody_clearErr hshare]
        exact k.rotateBody (fun _ _ _ _ hu => { hu with }) hstart
  · obtain ⟨hdeinit, hcmd, hdata, hrotate, -⟩ := hinactive hlife
    match i, hi with
    | .init busId sck pins baud pol ph, _ =>
      rcases execInit_ends hlife h with hraised | ⟨v, hv, rfl | rfl | ht⟩
      · exact .inl (.inr hraised)
      · exact .inl (.inl rfl)
      · exact .inl (.inl rfl)
      · exact .inr (ht ▸ ⟨hv.err, rfl⟩)
    | .deinit, _ => exact hwrong hdeinit
    | .writeCmd c params, _ => exact hwrong (hcmd c params)
    | .writeData data, _ => exact hwrong (hdata data)
    | .writeDataRotate src dst, _ => exact hwrong (hrotate src dst)

/-- A request that returns a code has returned OK, or has raised an error. -/
theorem ok_or_raisedIn_of_code {i : Instr} {c : Code} (hi : Instr.ReturnsCode i) (h : exec i s = .next t)
    (hret : t.ret = .code c) : (c = .ok ∧ t.err = none) ∨ RaisedIn s t := by
  rcases exec_endedEarly_or_ok hi h with (hnone | hraised) | ⟨herr, hok⟩
  · rw [hret] at hnone
    cases hnone
  · exact .inr hraised
  · rw [hret] at hok
    exact .inl ⟨Ret.code.inj hok, herr⟩

end Sys2Proof.Machine

open Sys2Proof Sys2Proof.Machine

/-- Settles O45: a request that returns has returned OK with S.err cleared, or has raised its error. -/
theorem returnCodeAgreesWithErr : Obligations.ReturnCodeAgreesWithErr := by
  intro i s t c hi hexec hret
  rcases ok_or_raisedIn_of_code hi hexec hret with ⟨rfl, herr⟩ | ⟨u, c', op, st, off, -, hc, rfl⟩
  · exact ⟨fun _ => herr, fun hne => absurd rfl hne⟩
  · obtain rfl : c' = c := Ret.code.inj hret
    exact ⟨fun hok => absurd hok hc, fun _ => ⟨_, rfl, rfl⟩⟩

/-- Settles O46: an error is raised while the lifecycle is as it was, no mark is set and no frame is in flight, and
raising it leaves no position. -/
theorem errorsAreRecoverable : Obligations.ErrorsAreRecoverable := by
  intro i s t c hi hqueue hsafe hexec hret hc
  rcases ok_or_raisedIn_of_code hi hexec hret with ⟨rfl, -⟩ | ⟨u, c', op, st, off, hu, -, rfl⟩
  · exact absurd rfl hc
  · refine ⟨hu.life, ?_, ?_⟩
    · rw [← hsafe]
      simp [safe, hu.fault, hu.refused]
    · simp [inProgress, Seq.idle, hu.queue hqueue]

end

section
/-! SUPPORT. The marks F_UNWRITTEN and R_DESCRIPTOR (60_exceptions.md R264, 42_framer.md R199): where a device is
attached every field that a framer request reads holds a value, and where its header lengths are INIT's every frame passes the
checks. -/

namespace Sys2Proof.Machine

variable {s u v t : State}

/-! ### The framer reads no field without a value -/

/-- Each field that a transmit reads holds a value (R21, R26, R28). -/
def FieldsWritten (u : State) : Prop :=
  u.devHandle.isSome = true ∧ u.devcfg.isSome = true ∧ u.buscfg.isSome = true

/-- Besides, no read of a field without a value is marked. -/
def ReadsWritten (u : State) : Prop := FieldsWritten u ∧ u.fault ≠ some .unwritten

theorem ReadsWritten.passed (hv : TimePassed u v) (h : ReadsWritten u) : ReadsWritten v := by
  rw [hv.eq]
  exact h

theorem ReadsWritten.sent {d : Desc} {st : Nat} (hv : FrameSent d st u v) (h : ReadsWritten u) : ReadsWritten v := by
  obtain ⟨dc, -, k, o, w, -, hw, rfl⟩ := hv
  exact show ReadsWritten w from h.passed hw

theorem ReadsWritten.hangs {d : Desc} (hv : FrameHangs d u v) (h : ReadsWritten u) : ReadsWritten v := by
  obtain ⟨dc, -, j, ph, b, l, o, w, -, hw, rfl, -⟩ := hv
  exact show ReadsWritten w from h.passed hw

theorem FieldsWritten.not_none (h : FieldsWritten u) :
    ¬ (u.devHandle = none ∨ u.devcfg = none ∨ u.buscfg = none) := by
  obtain ⟨hhandle, hdc, hbc⟩ := h
  rintro (hnone | hnone | hnone)
  · simp [hnone] at hhandle
  · simp [hnone] at hdc
  · simp [hnone] at hbc

theorem framerKeeps_readsWritten : FramerKeeps ReadsWritten (fun t => t.fault ≠ some .unwritten) where
  fault _ _ _ hf _ := fun hmark => hf (Option.some.inj hmark)
  unwritten _ hnone h := absurd hnone h.1.not_none
  refused _ _ _ h := h.2
  illFormed _ _ _ _ _ _ h := h.2
  raise _ _ _ _ _ _ h := h.2
  clearErr _ h := h
  setPos _ _ _ h := h
  setHeld _ _ h := h
  setReqIdle _ h := h
  sent _ _ _ _ hv h := h.sent hv
  passed _ _ hv h := h.passed hv
  hangs _ _ _ hv h := (h.hangs hv).2
  cut _ _ _ hv h := (h.hangs hv).2

theorem exec_not_unwritten_of_sends {i : Instr} (hi : Instr.Sends i) (hs : FieldsWritten s)
    (hfault : s.fault ≠ some .unwritten) (h : exec i s = .next t) : t.fault ≠ some .unwritten :=
  exec_keeps_of_sends framerKeeps_readsWritten (fun _ _ hu => hu.2) ⟨hs, hfault⟩ (fun _ _ _ _ _ _ _ hu => hu)
    (fun _ _ _ => hfault) hi h

/-! ### The framer's frames are well-formed -/

/-- Every frame the framer builds passes the checks under INIT's header lengths (R199). -/
theorem Desc.Framed.wf {p : Params} {d : Desc} {M : Multiline} {dc : DevCfg} (hd : Desc.Framed p d)
    (hbits : HeaderBits dc) : d.wf M dc = true := by
  rcases hd with ⟨c, tx, rfl⟩ | rfl | ⟨tx, rfl⟩
  · exact wf_cmdFrame p c tx hbits
  · exact wf_hsFrame p hbits
  · exact wf_dataFrame tx

/-- The mark R_DESCRIPTOR is in `u` only if it was in `s`. -/
def NoNewIllFormed (s u : State) : Prop := u.refused = some .descriptor → s.refused = some .descriptor

/-- Besides, a device is configured with INIT's header lengths. -/
def SendsWellFormed (s u : State) : Prop := (∀ dc, u.devcfg = some dc → HeaderBits dc) ∧ NoNewIllFormed s u

theorem SendsWellFormed.passed (hv : TimePassed u v) (h : SendsWellFormed s u) : SendsWellFormed s v := by
  rw [hv.eq]
  exact h

theorem SendsWellFormed.sent {d : Desc} {st : Nat} (hv : FrameSent d st u v) (h : SendsWellFormed s u) :
    SendsWellFormed s v := by
  obtain ⟨dc, -, k, o, w, -, hw, rfl⟩ := hv
  exact show SendsWellFormed s w from h.passed hw

theorem SendsWellFormed.hangs {d : Desc} (hv : FrameHangs d u v) (h : SendsWellFormed s u) : SendsWellFormed s v := by
  obtain ⟨dc, -, j, ph, b, l, o, w, -, hw, rfl, -⟩ := hv
  exact show SendsWellFormed s w from h.passed hw

/-- Any other refusal is not R_DESCRIPTOR. -/
theorem noNewIllFormed_setRefused {r : Refusal} (hr : r ≠ .descriptor) (s u : State) :
    NoNewIllFormed s (setRefused r u) := fun hmark => absurd (Option.some.inj hmark) hr

theorem framerKeeps_sendsWellFormed (s : State) : FramerKeeps (SendsWellFormed s) (NoNewIllFormed s) where
  fault _ _ _ _ h := h.2
  unwritten _ _ h := h.2
  refused _ u hr _ := noNewIllFormed_setRefused hr s u
  illFormed _ _ _ hd hdc hwf h := by
    rw [hd.wf (h.1 _ hdc)] at hwf
    cases hwf
  raise _ _ _ _ _ _ h := h.2
  clearErr _ h := h
  setPos _ _ _ h := h
  setHeld _ _ h := h
  setReqIdle _ h := h
  sent _ _ _ _ hv h := h.sent hv
  passed _ _ hv h := h.passed hv
  hangs _ _ _ hv h := (h.hangs hv).2
  cut _ _ u _ _ := noNewIllFormed_setRefused (by decide) s u

/-- Of the instructions that send frames POLLING_TRANSMIT alone can be refused R_DESCRIPTOR. -/
theorem exec_noNewIllFormed_of_sends {i : Instr} (hi : Instr.Sends i) (hraw : ∀ g d, i ≠ .pollingTransmit g d)
    (hbits : ∀ dc, s.devcfg = some dc → HeaderBits dc) (h : exec i s = .next t) : NoNewIllFormed s t :=
  exec_keeps_of_sends (framerKeeps_sendsWellFormed s) (fun _ _ hu => hu.2) ⟨hbits, id⟩ (fun _ _ _ _ _ _ _ hu => hu)
    (fun g d hpoll => absurd hpoll (hraw g d)) hi h

/-! ### A host-driven machine -/

/-- Neither of the two marks is set in `t`, the second where the header lengths are INIT's. -/
def Unmarked (p : Params) (t : State) : Prop :=
  t.fault ≠ some .unwritten ∧ (p.cmdBits = 8 → p.addrBits = 24 → t.refused ≠ some .descriptor)

theorem unmarked_of_safe (p : Params) (hfault : t.fault = none) (hrefused : t.refused = none) : Unmarked p t := by
  simp [Unmarked, hfault, hrefused]

/-- In ACTIVE all fields hold a value, and the device is configured as INIT does. -/
theorem fieldsWritten_of_active (hlife : LifecycleInv s) (hinv : MachineInv s) (hactive : s.life = .active) :
    FieldsWritten s := by
  obtain ⟨hbus, hdev⟩ := hlife.active.mp hactive
  exact ⟨hinv.handle.mp hdev, hinv.devcfg.mp hdev, hinv.buscfg.mp hbus⟩

theorem LifecycleInv.exists_cfg (hlife : LifecycleInv s) (hactive : s.life = .active) : ∃ c, s.cfg = some c :=
  Option.ne_none_iff_exists'.mp fun hnone => by simp [hlife.cfg.mpr hnone] at hactive

theorem LifecycleInv.headerBits (hlife : LifecycleInv s) (hactive : s.life = .active)
    (hcmd : s.params.cmdBits = 8) (haddr : s.params.addrBits = 24) {dc : DevCfg} (hdc : s.devcfg = some dc) :
    HeaderBits dc := by
  obtain ⟨c, hc⟩ := hlife.exists_cfg hactive
  obtain ⟨-, hdevcfg, -⟩ := hlife.config c hactive hc
  obtain rfl := Option.some.inj (hdc.symm.trans hdevcfg)
  exact ⟨hcmd, haddr⟩

theorem Instr.Framer.ne_pollingTransmit {i : Instr} (hi : Instr.Framer i) (g : Nat) (d : Desc) :
    i ≠ .pollingTransmit g d := by
  rintro rfl
  exact hi

section
variable (hlife : LifecycleInv s) (hinv : MachineInv s) (hfault : s.fault = none) (hrefused : s.refused = none)
  (hactive : s.life = .active)
include hlife hinv hfault hrefused hactive

/-- A framer request in ACTIVE. -/
theorem exec_unmarked_of_framer {i : Instr} (hi : Instr.Framer i) (h : exec i s = .next t) : Unmarked s.params t := by
  refine ⟨exec_not_unwritten_of_sends hi.sends (fieldsWritten_of_active hlife hinv hactive) (by simp [hfault]) h,
    fun hcmd haddr hmark => ?_⟩
  have hold := exec_noNewIllFormed_of_sends hi.sends hi.ne_pollingTransmit
    (fun dc hdc => hlife.headerBits hactive hcmd haddr hdc) h hmark
  rw [hrefused] at hold
  cases hold

theorem execDeinit_unmarked (p : Params) (h : execDeinit s = .next t) : Unmarked p t := by
  obtain ⟨c, hc⟩ := hlife.exists_cfg hactive
  obtain ⟨hbus, hdev⟩ := hlife.active.mp hactive
  obtain ⟨g, hg⟩ := Option.isSome_iff_exists.mp (hinv.handle.mp hdev)
  obtain rfl := Host.Outcome.next.inj ((execDeinit_of hactive hbus hdev hg (by simp [hc]) rfl rfl).symm.trans h)
  exact unmarked_of_safe p hfault hrefused

omit hinv in
theorem execReadAttr_unmarked (p : Params) {sel : BitVec 4} (h : execReadAttr sel s = .next t) : Unmarked p t := by
  obtain ⟨c, hc⟩ := hlife.exists_cfg hactive
  cases hsel : attrOf c sel with
  | some a =>
    obtain rfl := Host.Outcome.next.inj ((execReadAttr_of hactive hc hsel).symm.trans h)
    exact unmarked_of_safe p hfault hrefused
  | none =>
    simp only [execReadAttr, requireActive_of_active hactive, andThen_ret, hc, readField_some, hsel, finish_stop,
      Host.Outcome.next.injEq] at h
    subst h
    exact ⟨by simp [hfault], fun _ _ => by simp⟩

/-- A request of the host in ACTIVE. -/
theorem exec_unmarked_of_active {i : Instr} (hi : Instr.HostRequest i) (h : exec i s = .next t) :
    Unmarked s.params t := by
  have hsent (hframer : Instr.Framer i) : Unmarked s.params t :=
    exec_unmarked_of_framer hlife hinv hfault hrefused hactive hframer h
  match i, hi with
  | .init busId sck pins baud pol ph, _ =>
    obtain ⟨-, hinit, -⟩ := wrongLifecycleFaults s
    obtain rfl := Host.Outcome.next.inj ((hinit hactive busId sck pins baud pol ph).symm.trans h)
    exact ⟨by simp, fun _ _ => by simp [hrefused]⟩
  | .deinit, _ => exact execDeinit_unmarked hlife hinv hfault hrefused hactive _ h
  | .readAttr sel, _ => exact execReadAttr_unmarked hlife hfault hrefused hactive _ h
  | .writeCmd _ _, _ => exact hsent trivial
  | .writeData _, _ => exact hsent trivial
  | .writeDataRotate _ _, _ => exact hsent trivial

end

/-- A request of the host outside ACTIVE: INIT, or the fault F_LIFECYCLE. -/
theorem exec_unmarked_of_not_active {i : Instr} (p : Params) (hi : Instr.HostRequest i) (hfault : s.fault = none)
    (hrefused : s.refused = none) (hlife : s.life ≠ .active) (h : exec i s = .next t) : Unmarked p t := by
  have hwrong (hexec : exec i s = .next (setFault .lifecycle s)) : Unmarked p t := by
    obtain rfl := Host.Outcome.next.inj (hexec.symm.trans h)
    exact ⟨by simp, fun _ _ => by simp [hrefused]⟩
  obtain ⟨hinactive, -, -⟩ := wrongLifecycleFaults s
  obtain ⟨hdeinit, hcmd, hdata, hrotate, hattr⟩ := hinactive hlife
  match i, hi with
  | .init busId sck pins baud pol ph, _ =>
    rcases execInit_ends hlife h with ⟨v, c, op, st, off, hv, -, rfl⟩ | ⟨v, hv, rfl | rfl | ht⟩
    · exact unmarked_of_safe p (hv.fault.trans hfault) (hv.refused.trans hrefused)
    · exact ⟨by simp, fun _ _ => by simp [hv.refused, hrefused]⟩
    · exact ⟨by simp [hv.fault, hfault], fun _ _ => by simp⟩
    · rw [ht]
      exact unmarked_of_safe p (hv.fault.trans hfault) (hv.refused.trans hrefused)
  | .deinit, _ => exact hwrong hdeinit
  | .readAttr sel, _ => exact hwrong (hattr sel)
  | .writeCmd c params, _ => exact hwrong (hcmd c params)
  | .writeData data, _ => exact hwrong (hdata data)
  | .writeDataRotate src dst, _ => exact hwrong (hrotate src dst)

end Sys2Proof.Machine

open Sys2Proof Sys2Proof.Machine

/-- Settles O58: in ACTIVE every field holds a value and the header lengths are INIT's, and outside ACTIVE no frame is
sent. -/
theorem noUnwrittenReadNoIllFormedFrame : Obligations.NoUnwrittenReadNoIllFormedFrame := by
  refine ⟨fun s t hhost hlife hinv hstep => ?_, fun i s t hi hbits hexec => ?_⟩
  · obtain ⟨hfault, hrefused, ⟨r, hr, rfl⟩ | rfl | ⟨-, -, a, bs, es, -, rfl⟩ |
      ⟨-, -, hpass | ⟨u, hpass, rfl⟩⟩ | ⟨-, -, p, i, es, hin, hdecode, hexec⟩⟩ := step_next hstep
    · exact ⟨by simp [hfault], fun _ _ => by simpa using hr⟩
    · exact unmarked_of_safe _ hfault hrefused
    · exact unmarked_of_safe _ hfault hrefused
    · rw [hpass.eq]
      exact unmarked_of_safe _ hfault hrefused
    · rw [hpass.eq]
      exact ⟨by simp [hfault], fun _ _ => by simp⟩
    · obtain ⟨req, ops, rfl⟩ := hhost.packet hin
      have hi := hostRequest_of_decode hdecode
      by_cases hactive : s.life = .active
      · exact exec_unmarked_of_active (s := { s with inbox := es }) { hlife with } { hinv with } hfault hrefused
          hactive hi hexec
      · exact exec_unmarked_of_not_active (s := { s with inbox := es }) s.params hi hfault hrefused hactive hexec
  · rcases hi with hframer | ⟨c, tx, rfl | rfl | rfl⟩
    · exact exec_noNewIllFormed_of_sends hframer.sends hframer.ne_pollingTransmit hbits hexec
    · exact exec_noNewIllFormed_of_sends (i := .cmdFrame c tx) trivial (fun _ _ hraw => nomatch hraw) hbits hexec
    · exact exec_noNewIllFormed_of_sends (i := .hsFrame) trivial (fun _ _ hraw => nomatch hraw) hbits hexec
    · exact exec_noNewIllFormed_of_sends (i := .dataFrame tx) trivial (fun _ _ hraw => nomatch hraw) hbits hexec

end

section
/-! SUPPORT. An action of another thread that is refused inside a framer request: at a beat or at the end of its first
frame, and at an element copy of the square transpose (60_exceptions.md R276, 20_memory.md R61). -/

namespace Sys2Proof.Machine

variable {s u v : State} {h : Nat} {dc : DevCfg} {bc : BusCfg} {bufs : List Buf} {t : Desc} {ans : TxAnswer}
  {a : Arrival} {as : List Arrival} {src dst : Buf}

theorem setPos_busy (op : SeqOp) (pos : Pos) (s : State) : (setPos op pos s).seq.req ≠ .idle := ReqPos.noConfusion

/-! ### The first frame -/

/-- The action comes before a beat of the frame or at its end: the beats before it are driven. -/
theorem sendFrame_of_concurrent (hothers : u.others = a :: as) (hbusy : u.seq.req ≠ .idle)
    (hconc : Concurrent u.held a.event) (hdraw : drawTx u = (ans, v))
    (hwait : a.wait ≤ beatsUnder ans (serialize u.params.multiline dc t).length) :
    ∃ ph b l, sendFrame dc t u = .stop (setRefused .concurrent
      (hungFrame dc t a.wait ph b l v.oracle { u with others := ⟨0, a.event⟩ :: as })) := by
  unfold sendFrame
  rw [drawTx_congr hdraw (u := startFrame dc t u) rfl rfl]
  dsimp only
  rw [passTime_of_concurrent (s := { startFrame dc t u with oracle := v.oracle }) hothers hbusy
    (Nat.lt_succ_of_le hwait) hconc]
  obtain ⟨ph, b, l, hdrive, -⟩ := driveBeats_eq u.params.multiline dc t
    ((serialize u.params.multiline dc t).take a.wait)
    (refuseArrival a.event as { startFrame dc t u with oracle := v.oracle })
  exact ⟨ph, b, l, congrArg Call.stop hdrive⟩

/-- The call does not return: at `op`, `pos` of a request that started in `s`, with its first frame `t` on the lines and
a beat driven for each point that passed, the action `a` was refused. -/
def CutAtFirst (s : State) (dc : DevCfg) (o : Oracle) (t : Desc) (op : SeqOp) (pos : Pos) (bufs : List Buf)
    (a : Arrival) (as : List Arrival) (c : Call Unit) : Prop :=
  ∃ ph b l, c = .stop (setRefused .concurrent
    (framedHangs dc [] s.mem o t a.wait op pos bufs ph b l { s with others := ⟨0, a.event⟩ :: as }))

theorem CutAtFirst.andThen {o : Oracle} {op : SeqOp} {pos : Pos} {c : Call Unit}
    (hc : CutAtFirst s dc o t op pos bufs a as c) (f : Unit → State → Call Unit) :
    CutAtFirst s dc o t op pos bufs a as (andThen c f) := by
  obtain ⟨ph, b, l, rfl⟩ := hc
  exact ⟨ph, b, l, rfl⟩

/-- A request that is cut in its body. -/
theorem CutAtFirst.finish {o : Oracle} {op : SeqOp} {pos : Pos} {c : Call Unit} {i : Instr}
    (hc : CutAtFirst s dc o t op pos bufs a as c) (hexec : exec i s = finish (fun _ => .code .ok) c) :
    ∃ ph b l, exec i s = .next (setRefused .concurrent
      (framedHangs dc [] s.mem o t a.wait op pos bufs ph b l { s with others := ⟨0, a.event⟩ :: as })) := by
  obtain ⟨ph, b, l, rfl⟩ := hc
  exact ⟨ph, b, l, hexec⟩

section
variable (hatt : Attached s h dc bc) (hothers : s.others = a :: as) (hconc : Concurrent bufs a.event)
  (hdraw : drawTx s = (ans, v))
include hatt hothers hconc hdraw

theorem framedSend_cutAtFirst (op : OpName) (off : Option Nat) (sop : SeqOp) (pos : Pos)
    (hwf : t.wf s.params.multiline dc = true) (hfits : t.tx.length ≤ bc.maxTransferSize)
    (hwait : a.wait ≤ beatsUnder ans (serialize s.params.multiline dc t).length) :
    CutAtFirst s dc v.oracle t sop pos bufs a as
      (framedSend op off t (setPos sop pos (setHeld bufs (clearErr s)))) := by
  have hu := (Underway.start s dc [t] bufs).setPos sop pos
  obtain ⟨ph, b, l, hcut⟩ := sendFrame_of_concurrent (dc := dc) (t := t) (hu.others.trans hothers)
    (setPos_busy _ _ _) hconc (drawTx_congr hdraw rfl rfl) hwait
  refine ⟨ph, b, l, ?_⟩
  rw [framedSend, hu.transmit hatt (sendable_singleton hwf hfits) rfl, hcut, andThen_stop]
  simp [framedHangs, framed, hungFrame, setHeld, clearErr, setPos]

/-- The handshake, at the start of WRITE_DATA's body and of the fallback. -/
theorem handshake_cutAtFirst (hbits : HeaderBits dc) (op : OpName) (sop : SeqOp) (pos : Pos)
    (hwait : a.wait ≤ beatsUnder ans (serialize s.params.multiline dc (hsFrame s.params)).length) :
    CutAtFirst s dc v.oracle (hsFrame s.params) sop pos bufs a as
      (framedSend op none (hsFrame s.params) (setPos sop pos (setHeld bufs (clearErr s)))) :=
  framedSend_cutAtFirst hatt hothers hconc hdraw op none sop pos (wf_hsFrame _ hbits) (Nat.zero_le _) hwait

end

/-! ### The copies of the square transpose -/

/-- While an action waits, time passes and it waits less. -/
theorem passTime_of_wait {n : Nat} (hothers : s.others = a :: as) (hbusy : s.seq.req ≠ .idle) (hwait : n ≤ a.wait) :
    passTime n s = .through { s with others := ⟨a.wait - n, a.event⟩ :: as } := by
  rw [passTime, if_neg hbusy, hothers, passPoints, if_pos hwait]

/-- `s` but for the bytes of the buffer `dst`, and with the action `a` coming in `w` points. -/
def CopyingFrom (s : State) (dst : Buf) (a : Arrival) (as : List Arrival) (w : Nat) (u : State) : Prop :=
  ∃ m, (∀ x, x < dst.base ∨ dst.base + dst.len ≤ x → memByte m x = memByte s.mem x) ∧
    u = { s with mem := m, others := ⟨w, a.event⟩ :: as }

/-- The action `a` was refused at a copy. -/
def CutCopying (s : State) (dst : Buf) (a : Arrival) (as : List Arrival) (u : State) : Prop :=
  ∃ v, CopyingFrom s dst a as 0 v ∧ u = setRefused .concurrent v

/-- `n` copies are done, and the action still waits. -/
def CopiesDone (s : State) (dst : Buf) (a : Arrival) (as : List Arrival) (n : Nat) (u : State) : Prop :=
  n ≤ a.wait ∧ CopyingFrom s dst a as (a.wait - n) u

theorem CopyingFrom.params {w : Nat} (hu : CopyingFrom s dst a as w u) : u.params = s.params := by
  obtain ⟨m, -, rfl⟩ := hu
  rfl

theorem CopyingFrom.others {w : Nat} (hu : CopyingFrom s dst a as w u) : u.others = ⟨w, a.event⟩ :: as := by
  obtain ⟨m, -, rfl⟩ := hu
  rfl

theorem CopyingFrom.busy {w : Nat} (hu : CopyingFrom s dst a as w u) (hbusy : s.seq.req ≠ .idle) :
    u.seq.req ≠ .idle := by
  obtain ⟨m, -, rfl⟩ := hu
  exact hbusy

/-- The copy that finds the action there is not made. -/
theorem CopyingFrom.copyElem_cut {e e' : Nat} (hu : CopyingFrom s dst a as 0 u) (hbusy : s.seq.req ≠ .idle)
    (hconc : Concurrent s.held a.event) : copyElem src e dst e' u = .stop (setRefused .concurrent u) := by
  have hheld : u.held = s.held := by obtain ⟨m, -, rfl⟩ := hu; rfl
  rw [copyElem, passPoint, passTime_of_concurrent hu.others (hu.busy hbusy) Nat.one_pos (hheld ▸ hconc)]
  dsimp only
  rw [andThen_stop, refuseArrival, ← hu.others]

/-- A copy before that is made, and writes its element of `dst`. -/
theorem CopyingFrom.copyElem {e e' w : Nat} (hu : CopyingFrom s dst a as (w + 1) u) (hbusy : s.seq.req ≠ .idle)
    (hread : s.params.pixelBytes * e + s.params.pixelBytes ≤ src.len)
    (hwrite : s.params.pixelBytes * e' + s.params.pixelBytes ≤ dst.len) :
    ∃ v, copyElem src e dst e' u = .ret () v ∧ CopyingFrom s dst a as w v := by
  rw [Machine.copyElem, passPoint, passTime_of_wait hu.others (hu.busy hbusy) (Nat.le_add_left 1 w)]
  obtain ⟨m, hm, rfl⟩ := hu
  dsimp only
  rw [andThen_ret, memRead_in hread, andThen_ret, memWrite_in (by simpa using hwrite)]
  refine ⟨_, rfl, _, fun x hx => ?_, rfl⟩
  have hout : x < dst.base + s.params.pixelBytes * e' ∨
      dst.base + s.params.pixelBytes * e' + s.params.pixelBytes ≤ x := by omega
  rw [memByte_memSetBytes_other _ _ (by rw [memBytes_length]; exact hout), hm x hx]

section
variable (hbusy : s.seq.req ≠ .idle) (hconc : Concurrent s.held a.event)
include hbusy hconc

/-- At the copy that finds the action there it is refused; before, the copy is made. -/
theorem CopiesDone.copyElem {n e e' : Nat} (hu : CopiesDone s dst a as n u)
    (hread : s.params.pixelBytes * e + s.params.pixelBytes ≤ src.len)
    (hwrite : s.params.pixelBytes * e' + s.params.pixelBytes ≤ dst.len) :
    Ends (CutCopying s dst a as) (fun _ v => CopiesDone s dst a as (n + 1) v) (copyElem src e dst e' u) := by
  obtain ⟨hle, hfrom⟩ := hu
  rcases Nat.eq_or_lt_of_le hle with rfl | hlt
  · rw [Nat.sub_self] at hfrom
    rw [hfrom.copyElem_cut hbusy hconc]
    exact ⟨u, hfrom, rfl⟩
  · rw [show a.wait - n = a.wait - (n + 1) + 1 by omega] at hfrom
    obtain ⟨v, hcopy, hv⟩ := hfrom.copyElem hbusy hread hwrite
    rw [hcopy]
    exact ⟨hlt, hv⟩

/-- The copies up to the action's are made, row by row. -/
theorem transpose_copiesDone (hothers : s.others = a :: as) (hlen : dst.len = src.len)
    (hsquare : src.len = rotSquareBytes s.params) :
    Ends (CutCopying s dst a as) (fun _ v => CopiesDone s dst a as (s.params.rotW * s.params.rotH) v)
      (transpose src dst s) := by
  have hstart : CopiesDone s dst a as (0 * s.params.rotH) s := by
    rw [Nat.zero_mul]
    exact ⟨Nat.zero_le _, s.mem, fun _ _ => rfl, by rw [Nat.sub_zero, ← hothers]⟩
  have hloop := Ends.forLoop (I := fun i v => CopiesDone s dst a as (i * s.params.rotH) v)
    (body := fun i s => transposeRow src dst i s) s.params.rotW 0 s hstart (P := CutCopying s dst a as) ?_
  · rwa [Nat.zero_add] at hloop
  intro i v _ hi hv
  rw [transposeRow, hv.2.params]
  have hrow := Ends.forLoop (I := fun j w => CopiesDone s dst a as (i * s.params.rotH + j) w)
    (body := fun j s => copyElem src (j * s.params.rotW + i) dst (i * s.params.rotH + j) s) s.params.rotH 0 v hv
    (P := CutCopying s dst a as) ?_
  · rwa [Nat.zero_add, ← Nat.succ_mul] at hrow
  intro j w _ hj hw
  obtain ⟨hread, hwrite⟩ := transpose_in_bounds (P := s.params.pixelBytes) (i := i) (j := j) (W := s.params.rotW)
    (H := s.params.rotH) (by omega) (by omega) hsquare.symm
  rw [hw.2.params]
  exact hw.copyElem hbusy hconc hread (hlen ▸ hwrite)

/-- An action that comes before as many points as there are copies is refused at one of them. -/
theorem transpose_cut (hothers : s.others = a :: as) (hlen : dst.len = src.len)
    (hsquare : src.len = rotSquareBytes s.params) (hwait : a.wait < s.params.rotW * s.params.rotH) :
    ∃ u, CopyingFrom s dst a as 0 u ∧ transpose src dst s = .stop (setRefused .concurrent u) := by
  have hends := transpose_copiesDone hbusy hconc hothers hlen hsquare
  cases hcall : transpose src dst s with
  | ret _ v =>
    rw [hcall] at hends
    exact absurd hends.1 (Nat.not_le.mpr hwait)
  | stop v =>
    rw [hcall] at hends
    obtain ⟨u, hu, rfl⟩ := hends
    exact ⟨u, hu, rfl⟩

end

end Sys2Proof.Machine

open Sys2Proof Sys2Proof.Machine

/-- Settles O59: the first point of time at which the action may not come ends the request, in its first frame or at
one of its copies. -/
theorem concurrentUseInsideRequestRefused : Obligations.ConcurrentUseInsideRequestRefused := by
  intro s h dc bc a as hlife hatt hbits hothers now
  have ⟨_, _, _, hbc⟩ := hatt
  refine ⟨fun c params b ans s' hb hfits hdraw hconc hwait => ?_, fun b ans s' hdraw hconc hwait => ?_,
    fun src dst hshare hconc => ⟨fun ans s' hdraw hlen hne hfits hwait => ?_, fun hlen hsquare hwait => ?_⟩⟩
  · subst hb
    refine CutAtFirst.finish ?_ (exec_writeCmd_of_active hlife)
    rw [paramBuf, writeCmdBody_of_fits c hbc hfits]
    exact (framedSend_cutAtFirst hatt hothers hconc hdraw .writeCommand (some 0) .writeCmd .frame
      (wf_cmdFrame _ _ _ hbits) ((memBytes_length _ _ _).trans_le hfits) hwait).andThen _
  · refine CutAtFirst.finish ?_ (exec_writeData_of_active hlife)
    exact (handshake_cutAtFirst hatt hothers hconc hdraw hbits .writeDataHandshake .writeData .hs hwait).andThen _
  · refine CutAtFirst.finish ?_ (exec_writeDataRotate_of_active hlife)
    rw [rotateBody_of_fallback hshare hlen, rotateFallback_of_fits (s := clearErr s) hbc hne hfits]
    exact (handshake_cutAtFirst hatt hothers hconc hdraw hbits .rotateHandshake .writeDataRotate .hs hwait).andThen _
  · obtain ⟨u, ⟨m, hm, rfl⟩, hcut⟩ := transpose_cut
      (s := setPos .writeDataRotate .transpose (setHeld [src, dst] (clearErr s)))
      (setPos_busy _ _ _) hconc hothers hlen hsquare hwait
    refine ⟨m, hm, ?_⟩
    rw [exec_writeDataRotate_of_active hlife, rotateBody_of_square hshare hlen, rotateSquare, clearErr_params,
      if_neg (not_not.mpr hsquare), hcut]
    rfl

end
